-- ==== Sys2Proof/Word.lean ====
section
/-! DEFINITION. The word types of the core (spec/00_scope.md R5, R6): every value is an unsigned number of a stated width. -/

namespace Sys2Proof

/-- A memory cell, a general register, a timer (R5: 8 bits). -/
abbrev Byte := BitVec 8

/-- An instruction word, the program counter, the index register, a stack slot (R5: 16 bits). -/
abbrev Word := BitVec 16

/-- A 12-bit address field nnn of an instruction word (spec/30_encoding.md R81). -/
abbrev Addr12 := BitVec 12

/-- The number of a general register, 0x0..0xF (spec/10_state.md R20). -/
abbrev Reg := Fin 16

/-- VF, the flag register (spec/10_state.md R21). -/
abbrev Reg.flag : Reg := 15

end Sys2Proof
end

