-- ==== Sys2Proof/Syntax.lean ====
section
/-! DEFINITION. The instructions: one constructor for each row of spec/opcode_table.json (34 mapped instructions and
the no-op, spec/30_encoding.md table T-R90). -/

namespace Sys2Proof

/-- One fetched instruction.

`x`, `y` are register numbers, `kk` the immediate byte, `nnn` the address, `n` the sprite height (R81). An argument
named `ign` holds the bits of the word that the row does not examine (R86, R87, R89): no meaning reads them, but the
status register records the whole word of a faulting instruction (spec/60_exceptions.md R303), so they are part of the
instruction. DEDUCED, safe: notes/assumptions/5.md. -/
inductive Instr where
  /-- 00E0: every word 0??0; `ign` is bits 11..4. -/
  | cls (ign : Byte)
  /-- 00EE: every word 0??E; `ign` is bits 11..4. -/
  | ret (ign : Byte)
  /-- 1nnn -/
  | jp (nnn : Addr12)
  /-- 2nnn -/
  | call (nnn : Addr12)
  /-- 3xkk -/
  | seImm (x : Reg) (kk : Byte)
  /-- 4xkk -/
  | sneImm (x : Reg) (kk : Byte)
  /-- 5xy0: every word 5xy?; `ign` is bits 3..0. -/
  | seReg (x y : Reg) (ign : BitVec 4)
  /-- 6xkk -/
  | ldImm (x : Reg) (kk : Byte)
  /-- 7xkk -/
  | addImm (x : Reg) (kk : Byte)
  /-- 8xy0 -/
  | ldReg (x y : Reg)
  /-- 8xy1 -/
  | or (x y : Reg)
  /-- 8xy2 -/
  | and (x y : Reg)
  /-- 8xy3 -/
  | xor (x y : Reg)
  /-- 8xy4 -/
  | addReg (x y : Reg)
  /-- 8xy5 -/
  | sub (x y : Reg)
  /-- 8xy6; `y` is encoded and ignored (spec/42_alu.md R160). -/
  | shr (x y : Reg)
  /-- 8xy7 -/
  | subn (x y : Reg)
  /-- 8xyE; `y` is encoded and ignored (spec/42_alu.md R162). -/
  | shl (x y : Reg)
  /-- 9xy0: every word 9xy?; `ign` is bits 3..0. -/
  | sneReg (x y : Reg) (ign : BitVec 4)
  /-- Annn -/
  | ldI (nnn : Addr12)
  /-- Bnnn -/
  | jpV0 (nnn : Addr12)
  /-- Cxkk -/
  | rnd (x : Reg) (kk : Byte)
  /-- Dxyn -/
  | drw (x y : Reg) (n : Fin 16)
  /-- Ex9E: every word Ex?E; `ign` is bits 7..4. -/
  | skp (x : Reg) (ign : BitVec 4)
  /-- ExA1: every word Ex?1; `ign` is bits 7..4. -/
  | sknp (x : Reg) (ign : BitVec 4)
  /-- Fx07 -/
  | ldVxDt (x : Reg)
  /-- Fx0A -/
  | ldVxK (x : Reg)
  /-- Fx15 -/
  | ldDtVx (x : Reg)
  /-- Fx18 -/
  | ldStVx (x : Reg)
  /-- Fx1E -/
  | addI (x : Reg)
  /-- Fx29 -/
  | ldF (x : Reg)
  /-- Fx33 -/
  | ldB (x : Reg)
  /-- Fx55 -/
  | ldMemVx (x : Reg)
  /-- Fx65 -/
  | ldVxMem (x : Reg)
  /-- Any other word `w` (R92). -/
  | nop (w : Word)
  deriving DecidableEq, Repr

/-- The instruction's name in spec/opcode_table.json (R97). -/
def Instr.mnemonic : Instr → String
  | .cls _ => "CLS"
  | .ret _ => "RET"
  | .jp _ => "JP"
  | .call _ => "CALL"
  | .seImm _ _ => "SE_IMM"
  | .sneImm _ _ => "SNE_IMM"
  | .seReg _ _ _ => "SE_REG"
  | .ldImm _ _ => "LD_IMM"
  | .addImm _ _ => "ADD_IMM"
  | .ldReg _ _ => "LD_REG"
  | .or _ _ => "OR"
  | .and _ _ => "AND"
  | .xor _ _ => "XOR"
  | .addReg _ _ => "ADD_REG"
  | .sub _ _ => "SUB"
  | .shr _ _ => "SHR"
  | .subn _ _ => "SUBN"
  | .shl _ _ => "SHL"
  | .sneReg _ _ _ => "SNE_REG"
  | .ldI _ => "LD_I"
  | .jpV0 _ => "JP_V0"
  | .rnd _ _ => "RND"
  | .drw _ _ _ => "DRW"
  | .skp _ _ => "SKP"
  | .sknp _ _ => "SKNP"
  | .ldVxDt _ => "LD_VX_DT"
  | .ldVxK _ => "LD_VX_K"
  | .ldDtVx _ => "LD_DT_VX"
  | .ldStVx _ => "LD_ST_VX"
  | .addI _ => "ADD_I"
  | .ldF _ => "LD_F"
  | .ldB _ => "LD_B"
  | .ldMemVx _ => "LD_MEM_VX"
  | .ldVxMem _ => "LD_VX_MEM"
  | .nop _ => "NOP"

end Sys2Proof
end

