-- ==== Sys2Proof/WellFormed.lean ====
section
/-! DEFINITION. Which terms of Instr are instructions. Every operand of a mapped instruction has exactly its field's
width, so the one check is that a no-op's word is an unmapped word (spec/30_encoding.md R92). -/

namespace Sys2Proof

/-- R92, word for word: the sub-keys of families 0x0, 0x8, 0xE and 0xF that select no instruction. -/
def unmappedWord (w : Word) : Bool :=
  let family := w.toNat / 4096
  let n := w.toNat % 16
  let kk := w.toNat % 256
  (family == 0x0 && !([0x0, 0xE].contains n)) ||
  (family == 0x8 && [0x8, 0x9, 0xA, 0xB, 0xC, 0xD, 0xF].contains n) ||
  (family == 0xE && !([0x1, 0xE].contains n)) ||
  (family == 0xF && !([0x07, 0x0A, 0x15, 0x18, 0x1E, 0x29, 0x33, 0x55, 0x65].contains kk))

/-- A term of Instr that some word decodes to. -/
def Instr.wellFormed : Instr → Bool
  | .nop w => unmappedWord w
  | .cls _ | .ret _ | .jp _ | .call _ | .seImm _ _ | .sneImm _ _ | .seReg _ _ _ | .ldImm _ _ | .addImm _ _
  | .ldReg _ _ | .or _ _ | .and _ _ | .xor _ _ | .addReg _ _ | .sub _ _ | .shr _ _ | .subn _ _ | .shl _ _
  | .sneReg _ _ _ | .ldI _ | .jpV0 _ | .rnd _ _ | .drw _ _ _ | .skp _ _ | .sknp _ _ | .ldVxDt _ | .ldVxK _
  | .ldDtVx _ | .ldStVx _ | .addI _ | .ldF _ | .ldB _ | .ldMemVx _ | .ldVxMem _ => true

/-- `wellFormed` as a proposition. -/
abbrev Instr.WellFormed (i : Instr) : Prop := i.wellFormed = true

end Sys2Proof
end

