-- ==== Sys2Proof/Decode.lean ====
section
/-! DEFINITION. The decoder and dispatcher (spec/30_encoding.md R81 to R92), the encoder written from the same table
T-R90, and the opcode table itself as match and mask rows. -/

namespace Sys2Proof

/-! ## Fields (R81) -/

/-- w[15:12], the primary dispatch key. -/
def fieldFamily (w : Word) : BitVec 4 := w.extractLsb' 12 4

/-- w[11:8], a register number. -/
def fieldX (w : Word) : Reg := (w.extractLsb' 8 4).toFin

/-- w[7:4] as bits. -/
def fieldYBits (w : Word) : BitVec 4 := w.extractLsb' 4 4

/-- w[7:4], a register number. -/
def fieldY (w : Word) : Reg := (fieldYBits w).toFin

/-- w[3:0] as bits: the sub-key of families 0, 8 and E. -/
def fieldNBits (w : Word) : BitVec 4 := w.extractLsb' 0 4

/-- w[3:0], the sprite height. -/
def fieldN (w : Word) : Fin 16 := (fieldNBits w).toFin

/-- w[7:0], the immediate byte and the sub-key of family F. -/
def fieldKk (w : Word) : Byte := w.extractLsb' 0 8

/-- w[11:0], the address. -/
def fieldNnn (w : Word) : Addr12 := w.extractLsb' 0 12

/-- w[11:4], the bits family 0's rows do not examine. -/
def fieldMid (w : Word) : Byte := w.extractLsb' 4 8

/-! ## The dispatcher: a table for each multiplexed family (R85, R91) -/

/-- Family 0x0, keyed on n (R87). -/
def dispatch0 (w : Word) : Instr :=
  match fieldNBits w with
  | 0x0#4 => .cls (fieldMid w)
  | 0xE#4 => .ret (fieldMid w)
  | _ => .nop w

/-- Family 0x8, keyed on n (R88). -/
def dispatch8 (w : Word) : Instr :=
  match fieldNBits w with
  | 0x0#4 => .ldReg (fieldX w) (fieldY w)
  | 0x1#4 => .or (fieldX w) (fieldY w)
  | 0x2#4 => .and (fieldX w) (fieldY w)
  | 0x3#4 => .xor (fieldX w) (fieldY w)
  | 0x4#4 => .addReg (fieldX w) (fieldY w)
  | 0x5#4 => .sub (fieldX w) (fieldY w)
  | 0x6#4 => .shr (fieldX w) (fieldY w)
  | 0x7#4 => .subn (fieldX w) (fieldY w)
  | 0xE#4 => .shl (fieldX w) (fieldY w)
  | _ => .nop w

/-- Family 0xE, keyed on n (R89). -/
def dispatchE (w : Word) : Instr :=
  match fieldNBits w with
  | 0xE#4 => .skp (fieldX w) (fieldYBits w)
  | 0x1#4 => .sknp (fieldX w) (fieldYBits w)
  | _ => .nop w

/-- Family 0xF, keyed on kk (R90). -/
def dispatchF (w : Word) : Instr :=
  match fieldKk w with
  | 0x07#8 => .ldVxDt (fieldX w)
  | 0x0A#8 => .ldVxK (fieldX w)
  | 0x15#8 => .ldDtVx (fieldX w)
  | 0x18#8 => .ldStVx (fieldX w)
  | 0x1E#8 => .addI (fieldX w)
  | 0x29#8 => .ldF (fieldX w)
  | 0x33#8 => .ldB (fieldX w)
  | 0x55#8 => .ldMemVx (fieldX w)
  | 0x65#8 => .ldVxMem (fieldX w)
  | _ => .nop w

/-- The decoder: every 16-bit word is a mapped instruction or the no-op (R82, R86, R98). -/
def decodeWord (w : Word) : Instr :=
  match fieldFamily w with
  | 0x0#4 => dispatch0 w
  | 0x1#4 => .jp (fieldNnn w)
  | 0x2#4 => .call (fieldNnn w)
  | 0x3#4 => .seImm (fieldX w) (fieldKk w)
  | 0x4#4 => .sneImm (fieldX w) (fieldKk w)
  | 0x5#4 => .seReg (fieldX w) (fieldY w) (fieldNBits w)
  | 0x6#4 => .ldImm (fieldX w) (fieldKk w)
  | 0x7#4 => .addImm (fieldX w) (fieldKk w)
  | 0x8#4 => dispatch8 w
  | 0x9#4 => .sneReg (fieldX w) (fieldY w) (fieldNBits w)
  | 0xA#4 => .ldI (fieldNnn w)
  | 0xB#4 => .jpV0 (fieldNnn w)
  | 0xC#4 => .rnd (fieldX w) (fieldKk w)
  | 0xD#4 => .drw (fieldX w) (fieldY w) (fieldN w)
  | 0xE#4 => dispatchE w
  | 0xF#4 => dispatchF w
  -- no seventeenth family: no word comes here
  | _ => .nop w

/-! ## Bytes (R54, R80, R93) -/

/-- Why bytes hold no instruction. -/
inductive DecodeRefusal where
  /-- Fewer than the two bytes of an instruction word (R80). Raised by `decode` only; a step never sees it, because
  its fetch reads two bytes or faults (R93). Safe. -/
  | truncated
  deriving DecidableEq, Repr

/-- The instruction word of two consecutive bytes: the byte at the lower address is bits 15..8 (R54). -/
def wordOfBytes (hi lo : Byte) : Word := BitVec.ofNat 16 (hi.toNat * 0x100 + lo.toNat)

/-- The bytes of a word as memory holds them, lower address first (R54). -/
def bytesOfWord (w : Word) : List Byte := [w.extractLsb' 8 8, w.extractLsb' 0 8]

/-- One instruction from the front of a list of bytes, and the bytes left over. -/
def decode : List Byte → Except DecodeRefusal (Instr × List Byte)
  | hi :: lo :: rest => .ok (decodeWord (wordOfBytes hi lo), rest)
  | [_] => .error .truncated
  | [] => .error .truncated

/-- The instruction the decoder reads from a word numbered as spec/opcode_table.json numbers it; bits above `nbits`
are 0, and the word is laid out as memory holds it. -/
def decodeTableWord (nbits w : Nat) : Option Instr :=
  match decode (bytesOfWord (BitVec.ofNat 16 (w % 2 ^ nbits))) with
  | .ok (i, _) => some i
  | .error _ => none

/-! ## The encoder (T-R90): a field at bits hi..lo of the word stands for its value times 2^lo (R81) -/

/-- The word `f x y n` of four digits. -/
def packXYN (f x y n : BitVec 4) : Word :=
  BitVec.ofNat 16 (f.toNat * 0x1000 + x.toNat * 0x100 + y.toNat * 0x10 + n.toNat)

/-- The word `f x kk`. -/
def packXKk (f x : BitVec 4) (kk : Byte) : Word := BitVec.ofNat 16 (f.toNat * 0x1000 + x.toNat * 0x100 + kk.toNat)

/-- The word `f nnn`. -/
def packNnn (f : BitVec 4) (nnn : Addr12) : Word := BitVec.ofNat 16 (f.toNat * 0x1000 + nnn.toNat)

/-- The word `f mid n`, `mid` being bits 11..4. -/
def packMidN (f : BitVec 4) (mid : Byte) (n : BitVec 4) : Word :=
  BitVec.ofNat 16 (f.toNat * 0x1000 + mid.toNat * 0x10 + n.toNat)

/-- A register number as the four bits of its field. -/
def regBits (r : Fin 16) : BitVec 4 := BitVec.ofFin r

/-- The word of an instruction (T-R90). For `nop` it is the word itself. -/
def encode : Instr → Word
  | .cls ign => packMidN 0x0 ign 0x0
  | .ret ign => packMidN 0x0 ign 0xE
  | .jp nnn => packNnn 0x1 nnn
  | .call nnn => packNnn 0x2 nnn
  | .seImm x kk => packXKk 0x3 (regBits x) kk
  | .sneImm x kk => packXKk 0x4 (regBits x) kk
  | .seReg x y ign => packXYN 0x5 (regBits x) (regBits y) ign
  | .ldImm x kk => packXKk 0x6 (regBits x) kk
  | .addImm x kk => packXKk 0x7 (regBits x) kk
  | .ldReg x y => packXYN 0x8 (regBits x) (regBits y) 0x0
  | .or x y => packXYN 0x8 (regBits x) (regBits y) 0x1
  | .and x y => packXYN 0x8 (regBits x) (regBits y) 0x2
  | .xor x y => packXYN 0x8 (regBits x) (regBits y) 0x3
  | .addReg x y => packXYN 0x8 (regBits x) (regBits y) 0x4
  | .sub x y => packXYN 0x8 (regBits x) (regBits y) 0x5
  | .shr x y => packXYN 0x8 (regBits x) (regBits y) 0x6
  | .subn x y => packXYN 0x8 (regBits x) (regBits y) 0x7
  | .shl x y => packXYN 0x8 (regBits x) (regBits y) 0xE
  | .sneReg x y ign => packXYN 0x9 (regBits x) (regBits y) ign
  | .ldI nnn => packNnn 0xA nnn
  | .jpV0 nnn => packNnn 0xB nnn
  | .rnd x kk => packXKk 0xC (regBits x) kk
  | .drw x y n => packXYN 0xD (regBits x) (regBits y) (regBits n)
  | .skp x ign => packXYN 0xE (regBits x) ign 0xE
  | .sknp x ign => packXYN 0xE (regBits x) ign 0x1
  | .ldVxDt x => packXKk 0xF (regBits x) 0x07
  | .ldVxK x => packXKk 0xF (regBits x) 0x0A
  | .ldDtVx x => packXKk 0xF (regBits x) 0x15
  | .ldStVx x => packXKk 0xF (regBits x) 0x18
  | .addI x => packXKk 0xF (regBits x) 0x1E
  | .ldF x => packXKk 0xF (regBits x) 0x29
  | .ldB x => packXKk 0xF (regBits x) 0x33
  | .ldMemVx x => packXKk 0xF (regBits x) 0x55
  | .ldVxMem x => packXKk 0xF (regBits x) 0x65
  | .nop w => w

/-- The instruction with its ignored bits as the source's pattern spells them (R97): 00E0, 00EE, 5xy0, 9xy0, Ex9E,
ExA1. -/
def Instr.spelled : Instr → Instr
  | .cls _ => .cls 0x0E
  | .ret _ => .ret 0x0E
  | .seReg x y _ => .seReg x y 0x0
  | .sneReg x y _ => .sneReg x y 0x0
  | .skp x _ => .skp x 0x9
  | .sknp x _ => .sknp x 0xA
  | i => i

/-- What an assembler writes for an instruction (R97). -/
def assemble (i : Instr) : Word := encode i.spelled

/-! ## The opcode table (T-R90) -/

/-- A row of table T-R90: a word `w` selects it when `w &&& mask = bits`. -/
structure OpRow where
  mnemonic : String
  bits : Word
  mask : Word
  deriving DecidableEq, Repr

/-- The word selects the row. -/
def OpRow.selects (r : OpRow) (w : Word) : Bool := w &&& r.mask == r.bits

/-- The 34 mapped rows of table T-R90. -/
def opcodeRows : List OpRow := [
  ⟨"CLS", 0x0000, 0xF00F⟩, ⟨"RET", 0x000E, 0xF00F⟩, ⟨"JP", 0x1000, 0xF000⟩, ⟨"CALL", 0x2000, 0xF000⟩,
  ⟨"SE_IMM", 0x3000, 0xF000⟩, ⟨"SNE_IMM", 0x4000, 0xF000⟩, ⟨"SE_REG", 0x5000, 0xF000⟩,
  ⟨"LD_IMM", 0x6000, 0xF000⟩, ⟨"ADD_IMM", 0x7000, 0xF000⟩, ⟨"LD_REG", 0x8000, 0xF00F⟩,
  ⟨"OR", 0x8001, 0xF00F⟩, ⟨"AND", 0x8002, 0xF00F⟩, ⟨"XOR", 0x8003, 0xF00F⟩, ⟨"ADD_REG", 0x8004, 0xF00F⟩,
  ⟨"SUB", 0x8005, 0xF00F⟩, ⟨"SHR", 0x8006, 0xF00F⟩, ⟨"SUBN", 0x8007, 0xF00F⟩, ⟨"SHL", 0x800E, 0xF00F⟩,
  ⟨"SNE_REG", 0x9000, 0xF000⟩, ⟨"LD_I", 0xA000, 0xF000⟩, ⟨"JP_V0", 0xB000, 0xF000⟩, ⟨"RND", 0xC000, 0xF000⟩,
  ⟨"DRW", 0xD000, 0xF000⟩, ⟨"SKP", 0xE00E, 0xF00F⟩, ⟨"SKNP", 0xE001, 0xF00F⟩] ++ [
  ⟨"LD_VX_DT", 0xF007, 0xF0FF⟩, ⟨"LD_VX_K", 0xF00A, 0xF0FF⟩, ⟨"LD_DT_VX", 0xF015, 0xF0FF⟩,
  ⟨"LD_ST_VX", 0xF018, 0xF0FF⟩, ⟨"ADD_I", 0xF01E, 0xF0FF⟩, ⟨"LD_F", 0xF029, 0xF0FF⟩, ⟨"LD_B", 0xF033, 0xF0FF⟩,
  ⟨"LD_MEM_VX", 0xF055, 0xF0FF⟩, ⟨"LD_VX_MEM", 0xF065, 0xF0FF⟩]

end Sys2Proof
end

