-- ==== Sys2Proof/Config.lean ====
section
/-! DEFINITION. What is fixed for the machine (spec/00_scope.md table T-R5) and its one free value, the random source. -/

namespace Sys2Proof.Config

/-- MEM_SIZE: addresses 0x000..0xFFF (T-R5). -/
abbrev memSize : Nat := 4096

/-- FONT_BASE (T-R5). -/
abbrev fontBase : Nat := 0x50

/-- FONT_SIZE: 16 glyphs of 5 bytes (T-R5). -/
abbrev fontSize : Nat := 80

/-- PROG_BASE: where an image is loaded and where the first step fetches (T-R5). -/
abbrev progBase : Nat := 0x200

/-- MAX_IMAGE: the longest image `init` accepts (T-R5, spec/70_reset_and_hazards.md R341). -/
abbrev maxImage : Nat := 4096 - 512

/-- STACK_DEPTH (T-R5). -/
abbrev stackDepth : Nat := 16

/-- FB_W and FB_H (T-R5). -/
abbrev fbWidth : Nat := 64
abbrev fbHeight : Nat := 32

/-- FREE VALUE. The byte RND draws for the n-th time from a random source the host has not fixed
(spec/43_random.md R191, spec/92_eei_decisions.md D22: "a draw under no law"). It has no body: nothing can be
proved about it. DESIGN CHOICE, safe: notes/assumptions/3.md. -/
opaque randByte : Nat → Byte

end Sys2Proof.Config
end

