-- ==== Sys2Proof/Machine/State.lean ====
section
/-! DEFINITION. The whole architectural state (spec/10_state.md table T-S), its value after initialisation with an empty
image, and the reasons a step can stop. -/

namespace Sys2Proof.Machine

/-- memory_array_4k (spec/20_memory.md R50): the bytes that differ from the initial contents, as (address, byte) pairs
in one canonical form (`Memory.wf`), and FONT, which the initial contents depend on (R56, R57). -/
structure Memory where
  /-- The parameter FONT: constant, no step changes it (notes/assumptions/2.md). -/
  font : Font
  /-- Addresses strictly rising; an unlisted address reads as `Memory.initial` says. -/
  cells : List Host.Cell
  deriving DecidableEq, Repr

/-- The `state` field of the status register (spec/10_state.md R37). -/
inductive RunState where
  | run
  | fault
  deriving DecidableEq, Repr

/-- The `cause` field of the status register (spec/60_exceptions.md table T-R302). Code 7 is never raised. -/
inductive Cause where
  | none
  | fetchOob
  | readOob
  | writeOob
  | stackOverflow
  | stackUnderflow
  | keyIndex
  deriving DecidableEq, Repr

/-- The status register (spec/10_state.md R37): no instruction reads or writes it; a fault records itself here. -/
structure Status where
  state : RunState
  cause : Cause
  /-- fault_pc: the address the faulting instruction was fetched from. -/
  faultPc : Word
  /-- fault_word: the faulting instruction's word, 0x0000 for a fetch fault. -/
  faultWord : Word
  deriving DecidableEq, Repr

/-- The state of the core. The last two fields are the model's own and hold the input side of the random source. -/
structure State where
  /-- V0..VF (R20). -/
  v : Vector Byte 16
  /-- The index register I (R28). -/
  index : Word
  /-- The program counter (R25): pc0 between steps. -/
  pc : Word
  /-- The return stack (R30). -/
  stack : Vector Word 16
  /-- The number of pending calls, 0..16 (R31). -/
  sp : BitVec 8
  /-- DT, the delay timer (R33). -/
  dt : Byte
  /-- ST, the sound timer (R33). -/
  st : Byte
  /-- The keypad snapshot, true meaning pressed (R35). -/
  key : Vector Bool 16
  /-- The framebuffer, `fb[r][c]` true meaning set (R36). -/
  fb : Vector (Vector Bool 64) 32
  /-- Memory (spec/20_memory.md R50). -/
  mem : Memory
  /-- The status register (R37). -/
  status : Status
  /-- The model's own: bytes the host has put on rand_in and no RND has drawn yet, oldest first
  (spec/43_random.md R191; notes/assumptions/3.md). -/
  randIn : List Byte
  /-- The model's own: how many bytes have been drawn from the free value `Config.randByte`
  (notes/assumptions/3.md). -/
  randCount : Nat
  deriving DecidableEq, Repr

/-- Status after initialisation: (RUN, NONE, 0x0000, 0x0000) (R37). -/
def Status.clear : Status := ⟨.run, .none, 0x0000, 0x0000⟩

/-- A framebuffer of clear cells (R36, spec/44_display.md R200). -/
def clearScreen : Vector (Vector Bool 64) 32 := Vector.replicate 32 (Vector.replicate 64 false)

/-- The state after `init` of an empty image (spec/70_reset_and_hazards.md R340, R342) with the default FONT. -/
def State.reset : State where
  v := Vector.replicate 16 0x00
  index := 0x0000
  pc := 0x0200
  stack := Vector.replicate 16 0x0000
  sp := 0
  dt := 0x00
  st := 0x00
  key := Vector.replicate 16 false
  fb := clearScreen
  mem := ⟨defaultFont, []⟩
  status := Status.clear
  randIn := []
  randCount := 0

/-- Why a step answers no next state. The core's own faults (spec/60_exceptions.md T-R302) are NOT here: they are
next states with the status register written (`State.raise`). -/
inductive Fault where
  /-- Raised by CALL and RET when sp > 16, where the spec gives the access no meaning because "sp never leaves 0..16"
  (spec/10_state.md R31). No run reaches it. DESIGN CHOICE, safe: notes/assumptions/4.md. -/
  | stackPointerOutOfRange
  deriving DecidableEq, Repr

/-- Why an instruction has no meaning. -/
inductive Refusal where
  /-- Raised by an arm of `exec` whose instruction has no meaning yet; no arm does now. Safe. -/
  | notModelled (mnemonic : String)
  deriving DecidableEq, Repr

end Sys2Proof.Machine
end

