-- ==== Sys2Proof/Machine/Ops.lean ====
section
/-! DEFINITION. The named operations over registers, memory, stack, framebuffer, random source and status, among them
the fault entry. Every meaning reads and writes the state through these alone. -/

namespace Sys2Proof.Machine

/-- What a step or an instruction answers. -/
abbrev Result := Host.Outcome State Fault Refusal

/-! ## Register file (spec/10_state.md R20 to R22) -/

/-- V[r]. -/
def State.reg (s : State) (r : Reg) : Byte := s.v[r]

/-- V[r] <- b. -/
def State.setReg (s : State) (r : Reg) (b : Byte) : State := { s with v := s.v.set r b }

/-- The block write port: V[0..n-1] <- the bytes `f 0 .. f (n-1)` (R22). -/
def State.setRegsBelow (s : State) (n : Nat) (f : Nat → Byte) : State :=
  { s with v := Vector.ofFn fun r : Fin 16 => if r.val < n then f r.val else s.v[r] }

/-- The block read port: V[0..n-1] in order (R22). -/
def State.regsBelow (s : State) (n : Nat) : List Byte := s.v.toList.take n

/-! ## Special registers (spec/10_state.md R25, R28, R33) -/

/-- pc <- a. -/
def State.setPc (s : State) (a : Word) : State := { s with pc := a }

/-- pc <- pc + 2 mod 2^16: the fetch unit's advance, before the instruction's own effect (spec/30_encoding.md R94). -/
def State.advance (s : State) : State := s.setPc (s.pc + 2)

/-- I <- a. -/
def State.setIndex (s : State) (a : Word) : State := { s with index := a }

/-- DT <- b. -/
def State.setDt (s : State) (b : Byte) : State := { s with dt := b }

/-- ST <- b. -/
def State.setSt (s : State) (b : Byte) : State := { s with st := b }

/-- The framebuffer replaced. -/
def State.setFb (s : State) (fb : Vector (Vector Bool 64) 32) : State := { s with fb := fb }

/-- Memory replaced. -/
def State.setMem (s : State) (m : Memory) : State := { s with mem := m }

/-! ## Memory (spec/20_memory.md R50, R56, R60) -/

/-- The initial contents: FONT at 0x50..0x9F, 0x00 elsewhere (R56, R57). What an unlisted address reads as. -/
def Memory.initial (m : Memory) (a : Nat) : Byte :=
  if h : Config.fontBase ≤ a ∧ a < Config.fontBase + Config.fontSize then m.font[a - Config.fontBase]'(by grind) else 0x00

/-- The byte listed for an address, if one is. -/
def cellAt : List Host.Cell → Nat → Option Byte
  | [], _ => none
  | (k, b) :: rest, a => if k = a then some b else cellAt rest a

/-- mem[a]. -/
def Memory.read (m : Memory) (a : Nat) : Byte := (cellAt m.cells a).getD (m.initial a)

/-- The list with the byte of one address put in at its place. -/
def insertCell : List Host.Cell → Nat → Byte → List Host.Cell
  | [], a, b => [(a, b)]
  | (k, c) :: rest, a, b =>
    if a < k then (a, b) :: (k, c) :: rest
    else if a = k then (a, b) :: rest
    else (k, c) :: insertCell rest a b

/-- The list without an address. -/
def removeCell (cells : List Host.Cell) (a : Nat) : List Host.Cell := cells.filter fun c => c.1 ≠ a

/-- mem[a] <- b. Writing the byte an unlisted address reads as removes the entry. -/
def Memory.write (m : Memory) (a : Nat) (b : Byte) : Memory :=
  if b = m.initial a then { m with cells := removeCell m.cells a }
  else { m with cells := insertCell m.cells a b }

/-- Single-byte writes at consecutive addresses in rising order (R52). -/
def Memory.writeBytes (m : Memory) (a : Nat) : List Byte → Memory
  | [] => m
  | b :: rest => Memory.writeBytes (m.write a b) (a + 1) rest

/-- `n` single-byte reads at consecutive addresses in rising order (R52). -/
def Memory.readBytes (m : Memory) (a n : Nat) : List Byte := (List.range n).map fun k => m.read (a + k)

/-- The canonical form: addresses strictly rising and inside memory, no entry equal to the initial contents. -/
abbrev Memory.wf (m : Memory) : Prop :=
  m.cells.Pairwise (fun c d => c.1 < d.1) ∧ ∀ c ∈ m.cells, c.1 < Config.memSize ∧ c.2 ≠ m.initial c.1

/-! ## Stack (spec/10_state.md R30, R31, spec/41_jump_call.md R137) -/

/-- Push: stack[sp] <- a, then sp <- sp + 1. -/
def State.push (s : State) (a : Word) (h : s.sp.toNat < 16) : State :=
  { s with stack := s.stack.set s.sp.toNat a, sp := s.sp + 1 }

/-- Pop: sp <- sp - 1, then pc <- stack[sp]; the slot keeps its value. -/
def State.popPc (s : State) (h : (s.sp - 1).toNat < 16) : State :=
  { s with sp := s.sp - 1, pc := s.stack[(s.sp - 1).toNat] }

/-! ## Random source (spec/43_random.md R191) -/

/-- The byte the next RND draws: the oldest byte the host put on rand_in, else the free value. -/
def State.randByte (s : State) : Byte :=
  match s.randIn with
  | b :: _ => b
  | [] => Config.randByte s.randCount

/-- The random source after one byte has been drawn. -/
def State.drawn (s : State) : State :=
  match s.randIn with
  | _ :: rest => { s with randIn := rest }
  | [] => { s with randCount := s.randCount + 1 }

/-! ## Faults (spec/60_exceptions.md R301 to R305) -/

/-- Taking a fault, the core's one exception: everything stays as it was at the start of the step and the status
register records (FAULT, cause, pc0, word) (R303). `s` is the state at the start of the step. There is no return from
it (R307): only `State.init` leaves the FAULT state (R304). DEDUCED, safe: notes/assumptions/1.md. -/
def State.raise (s : State) (cause : Cause) (word : Word) : State :=
  { s with status := ⟨.fault, cause, s.pc, word⟩ }

/-- The code of a cause (T-R302). -/
def Cause.code : Cause → BitVec 3
  | .none => 0
  | .fetchOob => 1
  | .readOob => 2
  | .writeOob => 3
  | .stackOverflow => 4
  | .stackUnderflow => 5
  | .keyIndex => 6

/-- The code of the `state` field (spec/10_state.md R37). -/
def RunState.code : RunState → BitVec 1
  | .run => 0
  | .fault => 1

/-! ## Fetch (spec/30_encoding.md R93) -/

/-- The word at pc, or nothing where its second byte would lie past 0xFFF. -/
def State.fetch (s : State) : Option Word :=
  if s.pc.toNat + 1 > 0xFFF then none
  else some (wordOfBytes (s.mem.read s.pc.toNat) (s.mem.read (s.pc.toNat + 1)))

/-- The state with a word stored where the next fetch reads; unchanged where that fetch faults. -/
def State.placeWord (s : State) (w : Word) : State :=
  if s.pc.toNat + 1 > 0xFFF then s
  else s.setMem (s.mem.writeBytes s.pc.toNat (bytesOfWord w))

end Sys2Proof.Machine
end

