-- ==== Sys2Proof/Machine/Flags.lean ====
section
/-! DEFINITION. alu_8bit (spec/42_alu.md table T-R163): every result and flag computation, computed exactly on natural
numbers and narrowed at the end, and the write of result and flag. -/

namespace Sys2Proof.Machine

/-- VF's byte for a flag: 1 or 0. -/
def flagByte (f : Bool) : Byte := if f then 1 else 0

/-- Carry of an addition: the untruncated sum exceeds 255 (R153, R158). -/
def carry (a b : Byte) : Bool := a.toNat + b.toNat > 255

/-- No borrow of a - b, strictly: a > b (R159, R161). -/
def noBorrow (a b : Byte) : Bool := a.toNat > b.toNat

/-- The sum modulo 256 (R150). -/
def addByte (a b : Byte) : Byte := BitVec.ofNat 8 (a.toNat + b.toNat)

/-- The difference a - b modulo 256 (R150). -/
def subByte (a b : Byte) : Byte := BitVec.ofInt 8 ((a.toNat : Int) - b.toNat)

/-- The operations of alu_8bit (T-R163). -/
inductive AluOp where
  | passB
  | add
  | or
  | and
  | xor
  | sub
  | subn
  | shr
  | shl
  deriving DecidableEq, Repr

/-- The outputs of alu_8bit: the result, and the flag where flag_en = 1. -/
structure AluOut where
  result : Byte
  flag : Option Bool
  deriving DecidableEq, Repr

/-- Table T-R163, `a` being V[x] and `b` being V[y] or kk. -/
def alu (op : AluOp) (a b : Byte) : AluOut :=
  match op with
  | .passB => ⟨b, none⟩
  | .add => ⟨addByte a b, some (carry a b)⟩
  | .or => ⟨a ||| b, none⟩
  | .and => ⟨a &&& b, none⟩
  | .xor => ⟨a ^^^ b, none⟩
  | .sub => ⟨subByte a b, some (noBorrow a b)⟩
  | .subn => ⟨subByte b a, some (noBorrow b a)⟩
  | .shr => ⟨a >>> 1, some (a.getLsbD 0)⟩
  | .shl => ⟨a <<< 1, some (a.getLsbD 7)⟩

/-- VF <- flag where there is one (spec/10_state.md R22, the flag write port). -/
def State.setFlag (s : State) (flag : Option Bool) : State :=
  match flag with
  | some f => s.setReg Reg.flag (flagByte f)
  | none => s

/-- V[x] <- result, then VF <- flag as the last write, which wins when x = 0xF (R151). -/
def State.aluWrite (s : State) (x : Reg) (out : AluOut) : State := (s.setReg x out.result).setFlag out.flag

/-- The whole of an ALU instruction: operands read first, pc advanced, result and flag written. -/
def State.aluStep (s : State) (op : AluOp) (x : Reg) (b : Byte) : State :=
  s.advance.aluWrite x (alu op (s.reg x) b)

end Sys2Proof.Machine
end

