-- ==== Sys2Proof/Machine/Operands.lean ====
section
/-! DEFINITION. Operand forms beyond V[x] and kk (spec/30_encoding.md R83, R84): addresses, effective addresses and
their range check, key indices, the sprite of Dxyn, decimal digits, and the skip. -/

namespace Sys2Proof.Machine

/-- zext_16(nnn) (R83). -/
def zextAddr (nnn : Addr12) : Word := nnn.setWidth 16

/-- V[0] + nnn mod 2^16 (spec/41_jump_call.md R131). -/
def v0Plus (s : State) (nnn : Addr12) : Word := BitVec.ofNat 16 ((s.reg 0).toNat + nnn.toNat)

/-- I + V[x] mod 2^16 (spec/46_timer_key_index.md R251). -/
def indexPlus (s : State) (x : Reg) : Word := BitVec.ofNat 16 (s.index.toNat + (s.reg x).toNat)

/-- 0x50 + 5 * V[x], on the whole byte (spec/46_timer_key_index.md R252). -/
def glyphAddr (d : Byte) : Word := BitVec.ofNat 16 (Config.fontBase + 5 * d.toNat)

/-- The address of the first byte of an access through I; byte k is at this plus k, without wrap
(spec/20_memory.md R53). -/
def State.base (s : State) : Nat := s.index.toNat

/-- An access of `n` bytes through I has a byte past 0xFFF; an access of zero bytes has none (spec/20_memory.md R53). -/
abbrev State.outOfRange (s : State) (n : Nat) : Prop := n > 0 ∧ s.base + n - 1 > 0xFFF

/-- The keypad cell a register's value names, where it names one (spec/40_skip.md R114). -/
def keyIndex (b : Byte) : Option (Fin 16) := if h : b.toNat < 16 then some ⟨b.toNat, h⟩ else none

/-- The lowest pressed key (spec/46_timer_key_index.md R246). -/
def lowestKey (key : Vector Bool 16) : Option (Fin 16) := (List.finRange 16).find? fun k => key[k]

/-- skip_if (spec/40_skip.md R116): on a state whose pc has been advanced. -/
def State.skipIf (s : State) (cond : Bool) : State := if cond then s.setPc (s.pc + 2) else s

/-- Hundreds, tens and ones of a byte (spec/45_memory_block.md R222). -/
def decimalDigits (b : Byte) : List Byte :=
  [BitVec.ofNat 8 (b.toNat / 100), BitVec.ofNat 8 (b.toNat / 10 % 10), BitVec.ofNat 8 (b.toNat % 10)]

/-! ## The sprite_collision_detector (spec/44_display.md R206 to R209) -/

/-- The pixel of a sprite byte at column offset `b` in 0..7: bit 7 is the leftmost (R206). -/
def spritePixel (byte : Byte) (b : Nat) : Bool := byte.getLsbD (7 - b)

/-- The detector's outputs for one row: the row's new cells, and whether a set cell was hit (R209). -/
structure DetectorOut where
  cells : Vector Bool 64
  hit : Bool
  deriving DecidableEq, Repr

/-- R209 for one sprite row at origin column `ox`: the present cells at columns ox..ox+7 are XORed with the sprite's
pixels; a cell past column 63 is absent, neither drawn nor hit (R207). -/
def detectRow (byte : Byte) (ox : Nat) (old : Vector Bool 64) : DetectorOut where
  cells := Vector.ofFn fun c : Fin 64 =>
    if ox ≤ c.val ∧ c.val < ox + 8 then old[c] ^^ spritePixel byte (c.val - ox) else old[c]
  hit := (List.range 8).any fun b => if h : ox + b < 64 then old[ox + b] && spritePixel byte b else false

/-- The sprite byte that lands on screen row `r` when the first row is at `oy`, if one does (R203, R207). -/
def spriteRowAt (sprite : List Byte) (oy r : Nat) : Option Byte := if oy ≤ r then sprite[r - oy]? else none

/-- The framebuffer with a sprite drawn at origin column `ox` and row `oy`; rows past 31 are not presented. -/
def drawSprite (fb : Vector (Vector Bool 64) 32) (ox oy : Nat) (sprite : List Byte) : Vector (Vector Bool 64) 32 :=
  Vector.ofFn fun r : Fin 32 =>
    match spriteRowAt sprite oy r.val with
    | some byte => (detectRow byte ox fb[r]).cells
    | none => fb[r]

/-- Some presented row was hit: the collision of Dxyn (R208, R209). -/
def spriteHits (fb : Vector (Vector Bool 64) 32) (ox oy : Nat) (sprite : List Byte) : Bool :=
  (List.finRange 32).any fun r =>
    match spriteRowAt sprite oy r.val with
    | some byte => (detectRow byte ox fb[r]).hit
    | none => false

/-- The origin column V[x] mod 64 and row V[y] mod 32, wrapped once (R207). -/
def originColumn (b : Byte) : Nat := b.toNat % Config.fbWidth
def originRow (b : Byte) : Nat := b.toNat % Config.fbHeight

end Sys2Proof.Machine
end

