-- ==== Sys2Proof/Machine/Alu.lean ====
section
/-! DEFINITION. Loads, arithmetic and logic (spec/42_alu.md R150 to R163): each instruction is one operation of
alu_8bit on V[x] and V[y] or kk. -/

namespace Sys2Proof.Machine

/-- LD_IMM, 6xkk: V[x] <- kk (R152). -/
def execLdImm (x : Reg) (kk : Byte) (s : State) : Result := .next (s.aluStep .passB x kk)

/-- ADD_IMM, 7xkk: V[x] <- V[x] + kk, VF <- carry on every execution (R153). -/
def execAddImm (x : Reg) (kk : Byte) (s : State) : Result := .next (s.aluStep .add x kk)

/-- LD_REG, 8xy0: V[x] <- V[y] (R154). -/
def execLdReg (x y : Reg) (s : State) : Result := .next (s.aluStep .passB x (s.reg y))

/-- OR, 8xy1: V[x] <- V[x] | V[y] (R155). -/
def execOr (x y : Reg) (s : State) : Result := .next (s.aluStep .or x (s.reg y))

/-- AND, 8xy2: V[x] <- V[x] & V[y] (R156). -/
def execAnd (x y : Reg) (s : State) : Result := .next (s.aluStep .and x (s.reg y))

/-- XOR, 8xy3: V[x] <- V[x] ^ V[y] (R157). -/
def execXor (x y : Reg) (s : State) : Result := .next (s.aluStep .xor x (s.reg y))

/-- ADD_REG, 8xy4: V[x] <- V[x] + V[y], VF <- carry (R158). -/
def execAddReg (x y : Reg) (s : State) : Result := .next (s.aluStep .add x (s.reg y))

/-- SUB, 8xy5: V[x] <- V[x] - V[y], VF <- V[x] > V[y] (R159). -/
def execSub (x y : Reg) (s : State) : Result := .next (s.aluStep .sub x (s.reg y))

/-- SHR, 8xy6: V[x] <- V[x] >> 1, VF <- old bit 0; V[y] is not used (R160). -/
def execShr (x y : Reg) (s : State) : Result := .next (s.aluStep .shr x (s.reg y))

/-- SUBN, 8xy7: V[x] <- V[y] - V[x], VF <- V[y] > V[x] (R161). -/
def execSubn (x y : Reg) (s : State) : Result := .next (s.aluStep .subn x (s.reg y))

/-- SHL, 8xyE: V[x] <- V[x] << 1, VF <- old bit 7; V[y] is not used (R162). -/
def execShl (x y : Reg) (s : State) : Result := .next (s.aluStep .shl x (s.reg y))

end Sys2Proof.Machine
end

