-- ==== Sys2Proof/Machine/Display.lean ====
section
/-! DEFINITION. The display instructions (spec/44_display.md R200 to R209). -/

namespace Sys2Proof.Machine

/-- CLS, 00E0: every cell clear (R200). -/
def execCls (s : State) : Result := .next (s.advance.setFb clearScreen)

/-- The sprite of Dxyn: the n bytes at I (R203, R205). -/
def State.sprite (s : State) (n : Nat) : List Byte := s.mem.readBytes s.base n

/-- DRW, Dxyn: the origin is read once, before VF changes; the sprite is XORed in, clipped; VF <- collision, always
written, last; READ_OOB before anything is written (R204, R205). -/
def execDrw (x y : Reg) (n : Fin 16) (s : State) : Result :=
  if s.outOfRange n.val then .next (s.raise .readOob (encode (.drw x y n)))
  else
    let ox := originColumn (s.reg x)
    let oy := originRow (s.reg y)
    let sprite := s.sprite n.val
    .next ((s.advance.setFb (drawSprite s.fb ox oy sprite)).setFlag (some (spriteHits s.fb ox oy sprite)))

end Sys2Proof.Machine
end

