-- ==== Sys2Proof/Machine/JumpCall.lean ====
section
/-! DEFINITION. Jumps, calls and returns (spec/41_jump_call.md R130 to R137). -/

namespace Sys2Proof.Machine

/-- JP, 1nnn: pc <- nnn (R130). -/
def execJp (nnn : Addr12) (s : State) : Result := .next (s.advance.setPc (zextAddr nnn))

/-- JP_V0, Bnnn: pc <- V0 + nnn, not reduced modulo 4096 (R131). -/
def execJpV0 (nnn : Addr12) (s : State) : Result := .next (s.advance.setPc (v0Plus s nnn))

/-- CALL, 2nnn: push pc0 + 2, then pc <- nnn; STACK_OVERFLOW when sp = 16 (R134). -/
def execCall (nnn : Addr12) (s : State) : Result :=
  if s.sp = 16 then .next (s.raise .stackOverflow (encode (.call nnn)))
  else if h : s.sp.toNat < 16 then .next ((s.push s.advance.pc h).setPc (zextAddr nnn))
  else .fault .stackPointerOutOfRange

/-- RET, 00EE: pop into pc; STACK_UNDERFLOW when sp = 0 (R135). -/
def execRet (ign : Byte) (s : State) : Result :=
  if s.sp = 0 then .next (s.raise .stackUnderflow (encode (.ret ign)))
  else if h : (s.sp - 1).toNat < 16 then .next (s.popPc h)
  else .fault .stackPointerOutOfRange

end Sys2Proof.Machine
end

