-- ==== Sys2Proof/Machine/MemoryBlock.lean ====
section
/-! DEFINITION. Loads and stores through I (spec/45_memory_block.md R220 to R222). I is never changed. -/

namespace Sys2Proof.Machine

/-- LD_MEM_VX, Fx55: mem[I..I+x-1] <- V0..V(x-1); V[x] itself is not stored; WRITE_OOB (R220). -/
def execLdMemVx (x : Reg) (s : State) : Result :=
  if s.outOfRange x.val then .next (s.raise .writeOob (encode (.ldMemVx x)))
  else .next (s.advance.setMem (s.mem.writeBytes s.base (s.regsBelow x.val)))

/-- LD_VX_MEM, Fx65: V0..V(x-1) <- mem[I..I+x-1]; V[x] itself is not loaded; READ_OOB (R221). -/
def execLdVxMem (x : Reg) (s : State) : Result :=
  if s.outOfRange x.val then .next (s.raise .readOob (encode (.ldVxMem x)))
  else .next (s.advance.setRegsBelow x.val fun k => s.mem.read (s.base + k))

/-- LD_B, Fx33: the three decimal digits of V[x] at I, I + 1, I + 2; WRITE_OOB (R222). -/
def execLdB (x : Reg) (s : State) : Result :=
  if s.outOfRange 3 then .next (s.raise .writeOob (encode (.ldB x)))
  else .next (s.advance.setMem (s.mem.writeBytes s.base (decimalDigits (s.reg x))))

end Sys2Proof.Machine
end

