-- ==== Sys2Proof/Machine/Random.lean ====
section
/-! DEFINITION. The random byte (spec/43_random.md R190, R191). -/

namespace Sys2Proof.Machine

/-- RND, Cxkk: V[x] <- RandByte() & kk; one byte is drawn whatever kk is (R190). -/
def execRnd (x : Reg) (kk : Byte) (s : State) : Result := .next (s.advance.drawn.setReg x (s.randByte &&& kk))

end Sys2Proof.Machine
end

