-- ==== Sys2Proof/Machine/Skip.lean ====
section
/-! DEFINITION. The skip instructions (spec/40_skip.md R110 to R116). -/

namespace Sys2Proof.Machine

/-- SE_IMM, 3xkk: skip if V[x] equals kk (R110). -/
def execSeImm (x : Reg) (kk : Byte) (s : State) : Result := .next (s.advance.skipIf (s.reg x == kk))

/-- SNE_IMM, 4xkk: skip if V[x] differs from kk (R111). -/
def execSneImm (x : Reg) (kk : Byte) (s : State) : Result := .next (s.advance.skipIf (s.reg x != kk))

/-- SE_REG, 5xy0: skip if V[x] equals V[y] (R112). -/
def execSeReg (x y : Reg) (s : State) : Result := .next (s.advance.skipIf (s.reg x == s.reg y))

/-- SNE_REG, 9xy0: skip if V[x] differs from V[y] (R113). -/
def execSneReg (x y : Reg) (s : State) : Result := .next (s.advance.skipIf (s.reg x != s.reg y))

/-- SKP, Ex9E: skip if the key V[x] is pressed; KEY_INDEX if V[x] > 15 (R114). -/
def execSkp (x : Reg) (ign : BitVec 4) (s : State) : Result :=
  match keyIndex (s.reg x) with
  | some k => .next (s.advance.skipIf s.key[k])
  | none => .next (s.raise .keyIndex (encode (.skp x ign)))

/-- SKNP, ExA1: skip if the key V[x] is not pressed; KEY_INDEX if V[x] > 15 (R115). -/
def execSknp (x : Reg) (ign : BitVec 4) (s : State) : Result :=
  match keyIndex (s.reg x) with
  | some k => .next (s.advance.skipIf (!s.key[k]))
  | none => .next (s.raise .keyIndex (encode (.sknp x ign)))

end Sys2Proof.Machine
end

