-- ==== Sys2Proof/Machine/TimerKeyIndex.lean ====
section
/-! DEFINITION. Timers, key-wait and index register (spec/46_timer_key_index.md R240 to R252). -/

namespace Sys2Proof.Machine

/-- LD_VX_DT, Fx07: V[x] <- DT (R240). -/
def execLdVxDt (x : Reg) (s : State) : Result := .next (s.advance.setReg x s.dt)

/-- LD_DT_VX, Fx15: DT <- V[x] (R241). -/
def execLdDtVx (x : Reg) (s : State) : Result := .next (s.advance.setDt (s.reg x))

/-- LD_ST_VX, Fx18: ST <- V[x] (R242). -/
def execLdStVx (x : Reg) (s : State) : Result := .next (s.advance.setSt (s.reg x))

/-- LD_VX_K, Fx0A: no key pressed: pc <- pc - 2, so the same word is fetched again; else V[x] <- the lowest pressed
key (R246, R247). -/
def execLdVxK (x : Reg) (s : State) : Result :=
  match lowestKey s.key with
  | none => .next (s.advance.setPc (s.advance.pc - 2))
  | some k => .next (s.advance.setReg x (BitVec.ofNat 8 k.val))

/-- LD_I, Annn: I <- nnn (R250). -/
def execLdI (nnn : Addr12) (s : State) : Result := .next (s.advance.setIndex (zextAddr nnn))

/-- ADD_I, Fx1E: I <- I + V[x], no flag, no fault (R251). -/
def execAddI (x : Reg) (s : State) : Result := .next (s.advance.setIndex (indexPlus s x))

/-- LD_F, Fx29: I <- 0x50 + 5 * V[x] (R252). -/
def execLdF (x : Reg) (s : State) : Result := .next (s.advance.setIndex (glyphAddr (s.reg x)))

end Sys2Proof.Machine
end

