-- ==== Sys2Proof/Machine/Unmapped.lean ====
section
/-! DEFINITION. The no-op of unmapped words (spec/30_encoding.md R92). -/

namespace Sys2Proof.Machine

/-- NOP: nothing but the advance of pc; never a fault (R92). -/
def execNop (s : State) : Result := .next s.advance

end Sys2Proof.Machine
end

