-- ==== Sys2Proof/Machine/Step.lean ====
section
/-! DEFINITION. The step of the core (spec/30_encoding.md R95) and the word a step will fetch. -/

namespace Sys2Proof.Machine

/-- One step: nothing in the FAULT state (R304); FETCH_OOB where the word would reach past 0xFFF (R93); otherwise the
fetched word is decoded and its instruction executed (R95). -/
def step (s : State) : Host.Outcome State Fault Refusal :=
  match s.status.state with
  | .fault => .next s
  | .run =>
    match s.fetch with
    | none => .next (s.raise .fetchOob 0x0000)
    | some w => exec (decodeWord w) s

/-- `s` with an instruction stored where the next step fetches (notes/assumptions/10.md). -/
def State.withFetchWord (s : State) (nbits w : Nat) : State := s.placeWord (BitVec.ofNat 16 (w % 2 ^ nbits))

end Sys2Proof.Machine
end

