-- ==== Sys2Proof/Machine/HostMoves.lean ====
section
/-! DEFINITION. Initialisation (spec/70_reset_and_hazards.md R340 to R343) and the host's other moves
(spec/60_exceptions.md table T-R325). -/

namespace Sys2Proof.Machine

/-- The capacity error: an image longer than 3584 bytes, raised before any instruction executes (R341). -/
inductive InitError where
  | capacity
  deriving DecidableEq, Repr

/-- `init(image)` with FONT as the machine's parameter: the capacity check, then every piece of state at its reset
value, the image's bytes at 0x200 (R340). A failed init gives no state (R341). -/
def State.init (font : Font) (image : List Byte) : Except InitError State :=
  if image.length > Config.maxImage then .error .capacity
  else .ok { State.reset with mem := (Memory.mk font []).writeBytes Config.progBase image }

/-- One timer tick: each timer that is not zero goes down by one (R316). -/
def tickTimer (t : Byte) : Byte := if t.toNat > 0 then t - 1 else t

/-- The tick move (R316): in the FAULT state too (R304). -/
def State.tick (s : State) : State := { s with dt := tickTimer s.dt, st := tickTimer s.st }

/-- The set_keys move: the whole snapshot is replaced (R320). -/
def State.setKeys (s : State) (k : Vector Bool 16) : State := { s with key := k }

/-- A byte handed over on rand_in, to be drawn after those already waiting (spec/43_random.md R191). -/
def State.supplyRand (s : State) (b : Byte) : State := { s with randIn := s.randIn ++ [b] }

/-- fb_out: 2048 cells of 32 bits, row-major, 0xFFFFFFFF for a set cell (spec/10_state.md R36, R321). -/
def State.fbOut (s : State) : Vector (BitVec 32) 2048 :=
  Vector.ofFn fun k : Fin 2048 =>
    if (s.fb[k.val / 64]'(by omega))[k.val % 64]'(by omega) then 0xFFFFFFFF else 0x00000000

/-- status_out: state, cause, fault_pc, fault_word (R330). -/
structure StatusOut where
  state : BitVec 1
  cause : BitVec 3
  faultPc : Word
  faultWord : Word
  deriving DecidableEq, Repr

/-- The status register as the host reads it (R330). -/
def State.statusOut (s : State) : StatusOut :=
  ⟨s.status.state.code, s.status.cause.code, s.status.faultPc, s.status.faultWord⟩

/-- The moves of table T-R325. They are atomic, happen between steps and may come in any order (R325, R317). -/
inductive Move where
  | init (image : List Byte)
  | step
  | setKeys (k : Vector Bool 16)
  | tick
  | readFb
  | readTimers
  | readStatus
  | rand (b : Byte)
  deriving DecidableEq, Repr

/-- What the host gets back (T-R325). -/
inductive Reply where
  | nothing
  | ok
  | fb (cells : Vector (BitVec 32) 2048)
  | timers (dt st : Byte)
  | status (out : StatusOut)
  deriving DecidableEq, Repr

/-- What a move leaves. -/
inductive MoveResult where
  /-- The state after the move and the reply. -/
  | done (s : State) (reply : Reply)
  /-- A failed init: no machine state at all (R341). -/
  | capacityError
  /-- The step stopped with one of the model's own faults. -/
  | stopped (f : Fault)
  /-- The step's instruction has no meaning. -/
  | refused (r : Refusal)
  deriving DecidableEq, Repr

/-- One move on a machine. `init` replaces every piece of the core's state (R343); it keeps the machine's FONT, a
parameter (R57), and the random source, which is outside the core (spec/10_state.md R39; notes/assumptions/3.md). -/
def applyMove (m : Move) (s : State) : MoveResult :=
  match m with
  | .init image =>
    match State.init s.mem.font image with
    | .ok t => .done { t with randIn := s.randIn, randCount := s.randCount } .ok
    | .error _ => .capacityError
  | .step =>
    match Sys2Proof.Machine.step s with
    | .next t => .done t .nothing
    | .fault f => .stopped f
    | .refused r => .refused r
  | .setKeys k => .done (s.setKeys k) .nothing
  | .tick => .done s.tick .nothing
  | .readFb => .done s (.fb s.fbOut)
  | .readTimers => .done s (.timers s.dt s.st)
  | .readStatus => .done s (.status s.statusOut)
  | .rand b => .done (s.supplyRand b) .nothing

/-- A list of moves in order, stopping at the first that leaves no state. -/
def applyMoves : List Move → State → MoveResult
  | [], s => .done s .nothing
  | m :: rest, s =>
    match applyMove m s with
    | .done t _ => applyMoves rest t
    | .capacityError => .capacityError
    | .stopped f => .stopped f
    | .refused r => .refused r

end Sys2Proof.Machine
end

