-- ==== Sys2Proof/Safety.lean ====
section
/-! DEFINITION. What counts as a good state, as the end of a run and as a safe run, and the vocabulary of the claims:
parts of the state, frames, the fault table and the register-use table of the spec. -/

namespace Sys2Proof.Machine

/-! ## The invariant -/

/-- The status register is (RUN, NONE, 0, 0), or it records a fault at the pc the core stopped at
(spec/60_exceptions.md T-R302, R303). -/
abbrev State.StatusOk (s : State) : Prop :=
  (s.status.state = .run → s.status = Status.clear) ∧
  (s.status.state = .fault → s.status.cause ≠ .none ∧ s.status.faultPc = s.pc)

/-- The invariant of every reachable state: sp in 0..16 (spec/10_state.md R31), pc at most 0x10FE (R26), every stack
slot at most 0x1000 (spec/41_jump_call.md R134), memory in canonical form, the status register consistent. -/
abbrev State.Inv (s : State) : Prop :=
  s.sp.toNat ≤ 16 ∧ s.pc.toNat ≤ 0x10FE ∧ (∀ j : Fin 16, s.stack[j].toNat ≤ 0x1000) ∧ s.mem.wf ∧ s.StatusOk

/-! ## Ends of a run (spec/60_exceptions.md R331) -/

/-- The core is stopped in FAULT: an end of a run that is never a good one (R304, R331). -/
abbrev State.Faulted (s : State) : Prop := s.status.state = .fault

/-- The core is in RUN at a jump to itself: the good end of a run (R331). It goes on executing it. -/
abbrev State.AtSelfJump (s : State) : Prop :=
  s.status.state = .run ∧ ∃ w, s.fetch = some w ∧ w.toNat / 4096 = 1 ∧ w.toNat % 4096 = s.pc.toNat

/-- A run is over, for an observer (R331). -/
abbrev State.RunOver (s : State) : Prop := s.Faulted ∨ s.AtSelfJump

/-- A state a safe run may pass through: it meets the invariant and is not stopped. -/
abbrev State.Good (s : State) : Prop := s.Inv ∧ s.status.state = .run

/-- A sequence of host moves and steps is safe from a state if it leaves a good state after each prefix. -/
def SafeRun (ms : List Move) (s : State) : Prop :=
  ∀ k, ∃ t r, applyMoves (ms.take k) s = .done t r ∧ t.Good

/-! ## Frames -/

/-- The pieces of the state (spec/10_state.md T-S), for frames. -/
inductive Part where
  | regs
  | index
  | pc
  | stack
  | dt
  | st
  | key
  | screen
  | memory
  | font
  | status
  | random
  deriving DecidableEq, Repr

/-- A piece of the state is the same in two states. Memory is compared byte by byte, at every address. -/
def Part.same (p : Part) (s t : State) : Prop :=
  match p with
  | .regs => ∀ r, t.reg r = s.reg r
  | .index => t.index = s.index
  | .pc => t.pc = s.pc
  | .stack => t.sp = s.sp ∧ t.stack = s.stack
  | .dt => t.dt = s.dt
  | .st => t.st = s.st
  | .key => t.key = s.key
  | .screen => ∀ (r : Fin 32) (c : Fin 64), t.fb[r][c] = s.fb[r][c]
  | .memory => ∀ a, t.mem.read a = s.mem.read a
  | .font => t.mem.font = s.mem.font
  | .status => t.status = s.status
  | .random => t.randIn = s.randIn ∧ t.randCount = s.randCount

/-- Every piece of the state but the listed ones is unchanged. -/
def UnchangedBut (written : List Part) (s t : State) : Prop := ∀ p, p ∉ written → p.same s t

/-- Every general register but those of `written` is unchanged. -/
def RegsUnchangedBut (written : List Reg) (s t : State) : Prop := ∀ r, r ∉ written → t.reg r = s.reg r

/-- Every byte of memory outside `first .. first + n - 1` reads as before. -/
def MemoryUnchangedOutside (first n : Nat) (s t : State) : Prop :=
  ∀ a, (a < first ∨ first + n ≤ a) → t.mem.read a = s.mem.read a

/-! ## Answers -/

/-- An answer whose next state satisfies a check; false for a fault or a refusal. -/
def holdsAfter (o : Result) (p : State → Bool) : Bool :=
  match o with
  | .next t => p t
  | .fault _ => false
  | .refused _ => false

/-- An answer with its next state changed. -/
def mapNext (f : State → State) (o : Result) : Result :=
  match o with
  | .next t => .next (f t)
  | .fault r => .fault r
  | .refused r => .refused r

/-- Instructions executed one after another, each on the state the last one left. -/
def runInstrs : List Instr → State → Result
  | [], s => .next s
  | i :: rest, s =>
    match exec i s with
    | .next t => runInstrs rest t
    | .fault r => .fault r
    | .refused r => .refused r

/-! ## The spec's tables -/

/-- Table T-R302 of spec/60_exceptions.md: the cause an instruction raises in a state, if it raises one. -/
def faultCondition (i : Instr) (s : State) : Option Cause :=
  match i with
  | .drw _ _ n => if n.val > 0 ∧ s.index.toNat + n.val - 1 > 0xFFF then some .readOob else none
  | .ldVxMem x => if x.val > 0 ∧ s.index.toNat + x.val - 1 > 0xFFF then some .readOob else none
  | .ldMemVx x => if x.val > 0 ∧ s.index.toNat + x.val - 1 > 0xFFF then some .writeOob else none
  | .ldB _ => if s.index.toNat + 2 > 0xFFF then some .writeOob else none
  | .call _ => if s.sp.toNat = 16 then some .stackOverflow else none
  | .ret _ => if s.sp.toNat = 0 then some .stackUnderflow else none
  | .skp x _ => if (s.reg x).toNat > 15 then some .keyIndex else none
  | .sknp x _ => if (s.reg x).toNat > 15 then some .keyIndex else none
  | _ => none

/-- Table T-R25 of spec/10_state.md, as a natural number: the pc an instruction leaves when it does not fault. -/
def nextPc (i : Instr) (s : State) : Nat :=
  let pc0 := s.pc.toNat
  match i with
  | .seImm x kk => if s.reg x = kk then pc0 + 4 else pc0 + 2
  | .sneImm x kk => if s.reg x ≠ kk then pc0 + 4 else pc0 + 2
  | .seReg x y _ => if s.reg x = s.reg y then pc0 + 4 else pc0 + 2
  | .sneReg x y _ => if s.reg x ≠ s.reg y then pc0 + 4 else pc0 + 2
  | .skp x _ => if ∃ k : Fin 16, k.val = (s.reg x).toNat ∧ s.key[k] = true then pc0 + 4 else pc0 + 2
  | .sknp x _ => if ∃ k : Fin 16, k.val = (s.reg x).toNat ∧ s.key[k] = true then pc0 + 2 else pc0 + 4
  | .jp nnn => nnn.toNat
  | .jpV0 nnn => (s.reg 0).toNat + nnn.toNat
  | .call nnn => nnn.toNat
  | .ret _ => (s.stack[(s.sp.toNat - 1) % 16]'(by omega)).toNat
  | .ldVxK _ => if ∃ k : Fin 16, s.key[k] = true then pc0 + 2 else pc0
  | _ => pc0 + 2

/-- Table T-R23 of spec/10_state.md: the instructions that write VF as a flag (R21). -/
def writesFlag : Instr → Bool
  | .addImm _ _ | .addReg _ _ | .sub _ _ | .shr _ _ | .subn _ _ | .shl _ _ | .drw _ _ _ => true
  | _ => false

/-- Table T-R23: the one register an instruction names as its result, if it has one. -/
def resultReg : Instr → Option Reg
  | .ldImm x _ | .addImm x _ | .ldReg x _ | .or x _ | .and x _ | .xor x _ | .addReg x _ | .sub x _ | .shr x _
  | .subn x _ | .shl x _ | .rnd x _ | .ldVxDt x | .ldVxK x => some x
  | _ => none

/-- Table T-R23: an instruction may write register `r`. -/
def mayWriteReg (i : Instr) (r : Reg) : Prop :=
  resultReg i = some r ∨ (writesFlag i = true ∧ r = Reg.flag) ∨ ∃ x, i = .ldVxMem x ∧ r.val < x.val

/-- An instruction may write a piece of the state other than the general registers: table T-R23 for index, stack, timers
and screen; spec/20_memory.md R51 for memory; spec/43_random.md R191 for the random source, the model's field
(notes/assumptions/3.md). No instruction writes the keypad (R35) or FONT, which the model keeps in memory
(notes/assumptions/2.md); the status register is written by a fault alone (R37). -/
def mayWrite (i : Instr) (p : Part) : Bool :=
  match p, i with
  | .index, .ldI _ | .index, .addI _ | .index, .ldF _ => true
  | .stack, .call _ | .stack, .ret _ => true
  | .dt, .ldDtVx _ => true
  | .st, .ldStVx _ => true
  | .screen, .cls _ | .screen, .drw _ _ _ => true
  | .memory, .ldMemVx _ | .memory, .ldB _ => true
  | .random, .rnd _ _ => true
  | .pc, _ => true
  | _, _ => false

end Sys2Proof.Machine
end

