-- ==== Sys2Proof/Certificates/Slice0/Obligations.lean ====
section
/-! DEFINITION. The statements for the provers. A statement whose docstring says 'spec decision' or 'spec inference'
rests on a passage of spec/ that is marked so there; its basis in OBLIGATIONS.json is 'derived'. -/

open Sys2Proof Sys2Proof.Machine

/-! ## Encoding (spec/30_encoding.md) -/

/-- Decoding the word of a well-formed instruction gives it back, whatever its operands. -/
def Obligations.DecodeOfEncodeIsIdentity : Prop :=
  ∀ i : Instr, i.WellFormed → decodeWord (encode i) = i

/-- Every word decodes to a well-formed instruction whose word it is. That every word is mapped or a no-op is the
spec's inference (R98); that the bits the spec ignores are kept too, so that no bit of a word is dropped, is the model's
choice, notes/assumptions/5.md. -/
def Obligations.EncodeOfDecodeIsIdentity : Prop :=
  ∀ w : Word, (decodeWord w).WellFormed ∧ encode (decodeWord w) = w

/-- The rows of table T-R90 that a word selects are the one row of the instruction it decodes to, and none for a
no-op (R90, R91, R98; the spec marks R98 as its inference). -/
def Obligations.DecoderFollowsOpcodeTable : Prop :=
  ∀ w : Word, (opcodeRows.filter fun r => r.selects w).map (fun r => r.mnemonic) =
    if (decodeWord w).mnemonic = "NOP" then [] else [(decodeWord w).mnemonic]

/-- Words of the spec's examples decode to the instructions they stand for (spec/95_test_vectors.md). -/
def Obligations.SpecWordsDecode : Prop :=
  decodeWord 0x6A12 = .ldImm 0xA 0x12 ∧ decodeWord 0xA050 = .ldI 0x050 ∧ decodeWord 0xD005 = .drw 0 0 5 ∧
  decodeWord 0x0000 = .cls 0x00 ∧ decodeWord 0x01EE = .ret 0x1E ∧ decodeWord 0x5125 = .seReg 1 2 5 ∧
  decodeWord 0x8008 = .nop 0x8008 ∧ decodeWord 0xE10E = .skp 1 0 ∧ decodeWord 0xF265 = .ldVxMem 2

/-! ## The step (spec/30_encoding.md R93 to R95, spec/60_exceptions.md R302 to R304) -/

/-- A step runs the decoded instruction: when the core is in RUN and the two bytes at pc are the big-endian word of a
well-formed instruction, the step is exec of it on the same state. exec itself advances pc. -/
def Obligations.StepRunsDecodedInstruction : Prop :=
  ∀ (i : Instr) (s : State), i.WellFormed → s.status.state = .run → s.pc.toNat + 1 ≤ 0xFFF →
    (encode i).toNat = 256 * (s.mem.read s.pc.toNat).toNat + (s.mem.read (s.pc.toNat + 1)).toNat →
    step s = exec i s

/-- A fetch past 0xFFF raises FETCH_OOB: only the status register changes, to (FAULT, FETCH_OOB, pc0, 0x0000). Spec
decisions D4, D5. -/
def Obligations.FetchPastMemoryFaults : Prop :=
  ∀ s : State, s.status.state = .run → s.pc.toNat + 1 > 0xFFF →
    ∃ t, step s = .next t ∧ t.status = ⟨.fault, .fetchOob, s.pc, 0x0000⟩ ∧ UnchangedBut [.status] s t

/-- In FAULT no number of steps changes anything. Spec decision D5; that such a step answers the same state is the
model's reading, notes/assumptions/1.md. -/
def Obligations.FaultedCoreStaysPut : Prop :=
  ∀ (n : Nat) (s : State), s.status.state = .fault → Host.Core.run Sys2Proof.core n s = .next s

/-- Where table T-R302 gives an instruction a cause, it takes exactly that fault: the status register records (FAULT,
cause, pc0, word) and every other piece of state is left as it was. Spec decision D5. -/
def Obligations.TabledConditionsFault : Prop :=
  ∀ (i : Instr) (s : State) (c : Cause), faultCondition i s = some c →
    ∃ t, exec i s = .next t ∧ t.status = ⟨.fault, c, s.pc, encode i⟩ ∧ UnchangedBut [.status] s t

/-- Where table T-R302 gives an instruction no cause, it completes and the status register is not written. The premise
sp <= 16 is part of the invariant; spec inference R302. -/
def Obligations.NothingElseFaults : Prop :=
  ∀ (i : Instr) (s : State), s.sp.toNat ≤ 16 → faultCondition i s = none →
    ∃ t, exec i s = .next t ∧ t.status = s.status

/-- Every step keeps the invariant: sp in 0..16, pc at most 0x10FE, stack slots at most 0x1000, memory canonical, the
status register consistent. -/
def Obligations.StepKeepsInvariant : Prop :=
  ∀ s t : State, s.Inv → step s = .next t → t.Inv

/-- The state after reset meets the invariant. -/
def Obligations.ResetMeetsInvariant : Prop := State.reset.Inv

/-- Every move of the host keeps the invariant, init of any accepted image among them. -/
def Obligations.EveryMoveKeepsInvariant : Prop :=
  ∀ (m : Move) (s t : State) (r : Reply), s.Inv → applyMove m s = .done t r → t.Inv

/-- From a state that meets the invariant every step answers a next state: the model's own fault and refusal are never
reached, so a core in RUN stops only by a fault of table T-R302. -/
def Obligations.StepAlwaysAnswersNext : Prop :=
  ∀ s : State, s.Inv → ∃ t, step s = .next t

/-- Only the tabled instructions write a piece of the state: no other instruction touches it. Registers, index, stack,
timers and screen: table T-R23, spec inference R23. Memory: LD_MEM_VX and LD_B alone, spec inference R51. The status
register is written by a fault alone (R37). The random source is moved by RND alone (R191), in the model's form of
notes/assumptions/3.md; FONT, a field of the model's memory (notes/assumptions/2.md), by none. -/
def Obligations.StateWrittenOnlyAsTabled : Prop :=
  ∀ (i : Instr) (s t : State), exec i s = .next t →
    (∀ r, ¬ mayWriteReg i r → t.reg r = s.reg r) ∧
    (∀ p, p ≠ .regs → p ≠ .status → mayWrite i p = false → p.same s t) ∧
    (faultCondition i s = none → t.status = s.status)

/-- The pc an instruction leaves when it does not fault is the one of table T-R25. The bound on pc is that of a fetch
that does not fault, the bound on sp is part of the invariant. Spec inference R25. -/
def Obligations.PcAfterStepIsAsTabled : Prop :=
  ∀ (i : Instr) (s : State), s.sp.toNat ≤ 16 → s.pc.toNat + 1 ≤ 0xFFF → faultCondition i s = none →
    ∃ t, exec i s = .next t ∧ t.pc.toNat = nextPc i s

/-! ## Skips (spec/40_skip.md) -/

/-- SE_IMM, SNE_IMM, SE_REG and SNE_REG leave pc0 + 4 when their condition holds and pc0 + 2 when not, and change
nothing else. The conditions are the spec's from general knowledge (D10). -/
def Obligations.RegisterSkipsMovePc : Prop :=
  ∀ (x y : Reg) (kk : Byte) (ign : BitVec 4) (s : State),
    (∃ t, exec (.seImm x kk) s = .next t ∧ t.pc = (if s.reg x = kk then s.pc + 4 else s.pc + 2) ∧
      UnchangedBut [.pc] s t) ∧
    (∃ t, exec (.sneImm x kk) s = .next t ∧ t.pc = (if s.reg x = kk then s.pc + 2 else s.pc + 4) ∧
      UnchangedBut [.pc] s t) ∧
    (∃ t, exec (.seReg x y ign) s = .next t ∧ t.pc = (if s.reg x = s.reg y then s.pc + 4 else s.pc + 2) ∧
      UnchangedBut [.pc] s t) ∧
    (∃ t, exec (.sneReg x y ign) s = .next t ∧ t.pc = (if s.reg x = s.reg y then s.pc + 2 else s.pc + 4) ∧
      UnchangedBut [.pc] s t)

/-- SKP and SKNP with V[x] the index of a keypad cell: skip if the key is, or is not, pressed; nothing else changes.
The conditions are the spec's from general knowledge (D10). -/
def Obligations.KeySkipsMovePc : Prop :=
  ∀ (x : Reg) (ign : BitVec 4) (s : State) (k : Fin 16), (s.reg x).toNat = k.val →
    (∃ t, exec (.skp x ign) s = .next t ∧ t.pc = (if s.key[k] = true then s.pc + 4 else s.pc + 2) ∧
      UnchangedBut [.pc] s t) ∧
    (∃ t, exec (.sknp x ign) s = .next t ∧ t.pc = (if s.key[k] = true then s.pc + 2 else s.pc + 4) ∧
      UnchangedBut [.pc] s t)

/-- SKP and SKNP with V[x] > 15 raise KEY_INDEX. Spec decision D18. -/
def Obligations.KeySkipsFaultPastKeypad : Prop :=
  ∀ (x : Reg) (ign : BitVec 4) (s : State), (s.reg x).toNat > 15 → ∀ i ∈ [Instr.skp x ign, Instr.sknp x ign],
    ∃ t, exec i s = .next t ∧ t.status = ⟨.fault, .keyIndex, s.pc, encode i⟩ ∧ UnchangedBut [.status] s t

/-! ## Jumps, calls, returns (spec/41_jump_call.md) -/

/-- JP sets pc to nnn and changes nothing else; when nnn = 0xFFF the next fetch raises FETCH_OOB (R130).
The fault's precise entry and what it records are spec decisions D4, D5, D29; that it is a next state is the model's
reading, notes/assumptions/1.md. -/
def Obligations.JumpSetsPc : Prop :=
  ∀ (nnn : Addr12) (s : State), ∃ t, exec (.jp nnn) s = .next t ∧ t.pc.toNat = nnn.toNat ∧ UnchangedBut [.pc] s t ∧
    (nnn.toNat = 0xFFF → s.status.state = .run →
      ∃ u, step t = .next u ∧ u.status = ⟨.fault, .fetchOob, 0x0FFF, 0x0000⟩ ∧ UnchangedBut [.status] t u)

/-- JP_V0 sets pc to V0 + nnn and changes nothing else. That the sum is not reduced modulo 4096 is spec decision D4. -/
def Obligations.JumpV0SetsPc : Prop :=
  ∀ (nnn : Addr12) (s : State),
    ∃ t, exec (.jpV0 nnn) s = .next t ∧ t.pc.toNat = (s.reg 0).toNat + nnn.toNat ∧ UnchangedBut [.pc] s t

/-- CALL with sp < 16 writes pc0 + 2 into slot sp alone, adds one to sp and sets pc to nnn; with sp = 16 it raises
STACK_OVERFLOW (spec decision D6). -/
def Obligations.CallPushesReturnAddress : Prop :=
  ∀ (nnn : Addr12) (s : State),
    (s.sp.toNat < 16 → ∃ t, exec (.call nnn) s = .next t ∧ t.pc.toNat = nnn.toNat ∧ t.sp.toNat = s.sp.toNat + 1 ∧
      (∀ j : Fin 16, t.stack[j] = if j.val = s.sp.toNat then s.pc + 2 else s.stack[j]) ∧
      UnchangedBut [.pc, .stack] s t) ∧
    (s.sp.toNat = 16 → ∃ t, exec (.call nnn) s = .next t ∧
      t.status = ⟨.fault, .stackOverflow, s.pc, encode (.call nnn)⟩ ∧ UnchangedBut [.status] s t)

/-- RET with sp in 1..16 subtracts one from sp and sets pc to the popped slot, which keeps its value; with sp = 0 it
raises STACK_UNDERFLOW (spec decision D7). -/
def Obligations.ReturnPopsStack : Prop :=
  ∀ (ign : Byte) (s : State),
    (∀ j : Fin 16, s.sp.toNat = j.val + 1 → ∃ t, exec (.ret ign) s = .next t ∧ t.pc = s.stack[j] ∧
      t.sp.toNat = j.val ∧ t.stack = s.stack ∧ UnchangedBut [.pc, .stack] s t) ∧
    (s.sp.toNat = 0 → ∃ t, exec (.ret ign) s = .next t ∧
      t.status = ⟨.fault, .stackUnderflow, s.pc, encode (.ret ign)⟩ ∧ UnchangedBut [.status] s t)

/-- N calls followed by N returns, with room for N on the stack, end at the address after the first call with sp as
before; the slots below sp and everything else are as before. Spec inference R136, as conflict C6 reads it. -/
def Obligations.CallsAndReturnsBalance : Prop :=
  ∀ (targets : List Addr12) (ign : Byte) (s : State), targets ≠ [] → s.sp.toNat + targets.length ≤ 16 →
    ∃ t, runInstrs (targets.map Instr.call ++ List.replicate targets.length (Instr.ret ign)) s = .next t ∧
      t.pc = s.pc + 2 ∧ t.sp = s.sp ∧ (∀ j : Fin 16, j.val < s.sp.toNat → t.stack[j] = s.stack[j]) ∧
      UnchangedBut [.pc, .stack] s t

/-! ## Loads, arithmetic, logic (spec/42_alu.md) -/

/-- LD_IMM loads kk into V[x], VF only when x = 0xF, and changes nothing else but pc (R152). -/
def Obligations.LoadImmediateWritesRegister : Prop :=
  ∀ (x : Reg) (kk : Byte) (s : State), ∃ t, exec (.ldImm x kk) s = .next t ∧ t.reg x = kk ∧ t.pc = s.pc + 2 ∧
    RegsUnchangedBut [x] s t ∧ UnchangedBut [.regs, .pc] s t

/-- LD_REG copies V[y] into V[x] and changes nothing else but pc. Operand order: the spec's from general knowledge (D9). -/
def Obligations.LoadRegisterCopies : Prop :=
  ∀ (x y : Reg) (s : State), ∃ t, exec (.ldReg x y) s = .next t ∧ t.reg x = s.reg y ∧ t.pc = s.pc + 2 ∧
    RegsUnchangedBut [x] s t ∧ UnchangedBut [.regs, .pc] s t

/-- OR, AND and XOR combine V[x] and V[y] bit by bit into V[x]; VF is no flag of theirs. Operand roles: the spec's from
general knowledge (D9). -/
def Obligations.LogicCombinesBits : Prop :=
  ∀ (x y : Reg) (s : State),
    (∃ t, exec (.or x y) s = .next t ∧
      (∀ k < 8, (t.reg x).getLsbD k = ((s.reg x).getLsbD k || (s.reg y).getLsbD k)) ∧ t.pc = s.pc + 2 ∧
      RegsUnchangedBut [x] s t ∧ UnchangedBut [.regs, .pc] s t) ∧
    (∃ t, exec (.and x y) s = .next t ∧
      (∀ k < 8, (t.reg x).getLsbD k = ((s.reg x).getLsbD k && (s.reg y).getLsbD k)) ∧ t.pc = s.pc + 2 ∧
      RegsUnchangedBut [x] s t ∧ UnchangedBut [.regs, .pc] s t) ∧
    (∃ t, exec (.xor x y) s = .next t ∧
      (∀ k < 8, (t.reg x).getLsbD k = ((s.reg x).getLsbD k ^^ (s.reg y).getLsbD k)) ∧ t.pc = s.pc + 2 ∧
      RegsUnchangedBut [x] s t ∧ UnchangedBut [.regs, .pc] s t)

/-- ADD_IMM and ADD_REG: V[x] is the sum modulo 256 (lost when x = 0xF), VF is 1 iff the untruncated sum exceeds 255,
else 0, on every execution; nothing else changes but pc (R153, R158). Operands read first and VF written last: spec
decision D8. -/
def Obligations.AdditionWritesSumAndCarry : Prop :=
  ∀ (x y : Reg) (kk : Byte) (s : State),
    (∃ t, exec (.addImm x kk) s = .next t ∧
      (x ≠ Reg.flag → (t.reg x).toNat = ((s.reg x).toNat + kk.toNat) % 256) ∧
      (t.reg Reg.flag).toNat = (if (s.reg x).toNat + kk.toNat > 255 then 1 else 0) ∧ t.pc = s.pc + 2 ∧
      RegsUnchangedBut [x, Reg.flag] s t ∧ UnchangedBut [.regs, .pc] s t) ∧
    (∃ t, exec (.addReg x y) s = .next t ∧
      (x ≠ Reg.flag → (t.reg x).toNat = ((s.reg x).toNat + (s.reg y).toNat) % 256) ∧
      (t.reg Reg.flag).toNat = (if (s.reg x).toNat + (s.reg y).toNat > 255 then 1 else 0) ∧ t.pc = s.pc + 2 ∧
      RegsUnchangedBut [x, Reg.flag] s t ∧ UnchangedBut [.regs, .pc] s t)

/-- SUB: V[x] is V[x] - V[y] modulo 256 (lost when x = 0xF), VF is 1 iff V[x] > V[y] before, strictly, else 0; nothing
else changes but pc (R159). Operands read first and VF written last, also for x or y = 0xF: spec decision D8, which
settles conflict C1. -/
def Obligations.SubtractionWritesDifferenceAndNoBorrow : Prop :=
  ∀ (x y : Reg) (s : State), ∃ t, exec (.sub x y) s = .next t ∧
    (x ≠ Reg.flag → ((t.reg x).toNat : Int) = (((s.reg x).toNat : Int) - (s.reg y).toNat) % 256) ∧
    (t.reg Reg.flag).toNat = (if (s.reg x).toNat > (s.reg y).toNat then 1 else 0) ∧ t.pc = s.pc + 2 ∧
    RegsUnchangedBut [x, Reg.flag] s t ∧ UnchangedBut [.regs, .pc] s t

/-- SUBN: V[x] is V[y] - V[x] modulo 256 (lost when x = 0xF), VF is 1 iff V[y] > V[x] before, strictly, else 0; nothing
else changes but pc. The result is the spec's reading (decision D12, conflict C7); VF is
written last (decision D8). -/
def Obligations.ReverseSubtractionWritesDifferenceAndNoBorrow : Prop :=
  ∀ (x y : Reg) (s : State), ∃ t, exec (.subn x y) s = .next t ∧
    (x ≠ Reg.flag → ((t.reg x).toNat : Int) = (((s.reg y).toNat : Int) - (s.reg x).toNat) % 256) ∧
    (t.reg Reg.flag).toNat = (if (s.reg y).toNat > (s.reg x).toNat then 1 else 0) ∧ t.pc = s.pc + 2 ∧
    RegsUnchangedBut [x, Reg.flag] s t ∧ UnchangedBut [.regs, .pc] s t

/-- SHR and SHL shift V[x] by one bit, whatever V[y] is, and VF is the bit shifted out. Shift amount and the ignored
V[y]: spec decision D11; VF written last: D8. -/
def Obligations.ShiftsMoveOneBitIntoFlag : Prop :=
  ∀ (x y : Reg) (s : State),
    (∃ t, exec (.shr x y) s = .next t ∧ (x ≠ Reg.flag → (t.reg x).toNat = (s.reg x).toNat / 2) ∧
      (t.reg Reg.flag).toNat = (s.reg x).toNat % 2 ∧ t.pc = s.pc + 2 ∧
      RegsUnchangedBut [x, Reg.flag] s t ∧ UnchangedBut [.regs, .pc] s t) ∧
    (∃ t, exec (.shl x y) s = .next t ∧ (x ≠ Reg.flag → (t.reg x).toNat = 2 * (s.reg x).toNat % 256) ∧
      (t.reg Reg.flag).toNat = (s.reg x).toNat / 128 ∧ t.pc = s.pc + 2 ∧
      RegsUnchangedBut [x, Reg.flag] s t ∧ UnchangedBut [.regs, .pc] s t)

/-! ## Random (spec/43_random.md) -/

/-- RND writes the drawn byte ANDed with kk into V[x], no flag, and nothing else of the core changes but pc. The drawn
byte is `State.randByte`, the model's form of rand_in, notes/assumptions/3.md; spec decision D22. -/
def Obligations.RandomByteIsMasked : Prop :=
  ∀ (x : Reg) (kk : Byte) (s : State), ∃ t, exec (.rnd x kk) s = .next t ∧
    (∀ k < 8, (t.reg x).getLsbD k = (s.randByte.getLsbD k && kk.getLsbD k)) ∧ t.pc = s.pc + 2 ∧
    RegsUnchangedBut [x] s t ∧ UnchangedBut [.regs, .pc, .random] s t

/-- RND draws exactly one byte, whatever kk is: the oldest injected byte if there is one, else the next free byte. The
queue and the counter are the model's form of rand_in, notes/assumptions/3.md; spec decisions D22, D32. -/
def Obligations.RandomDrawsOneByte : Prop :=
  ∀ (x : Reg) (kk : Byte) (s t : State), exec (.rnd x kk) s = .next t →
    (∀ b rest, s.randIn = b :: rest → t.reg x = b &&& kk ∧ t.randIn = rest ∧ t.randCount = s.randCount) ∧
    (s.randIn = [] → t.reg x = Config.randByte s.randCount &&& kk ∧ t.randIn = [] ∧ t.randCount = s.randCount + 1)

/-! ## Display (spec/44_display.md) -/

/-- CLS leaves every cell clear and changes nothing else but pc (R200). -/
def Obligations.ClearScreenClearsEveryCell : Prop :=
  ∀ (ign : Byte) (s : State), ∃ t, exec (.cls ign) s = .next t ∧
    (∀ (r : Fin 32) (c : Fin 64), t.fb[r][c] = false) ∧ t.pc = s.pc + 2 ∧ UnchangedBut [.screen, .pc] s t

/-- DRW, with its n bytes inside memory, toggles exactly the on-screen cells under a set sprite pixel: row k of the
sprite is mem[I + k], pixel b of a row is its bit 7 - b, the origin (V[x] mod 64, V[y] mod 32) is wrapped once, and
pixels past the edge are not drawn. Spec decisions D15, D16, D17. -/
def Obligations.DrawTogglesSpritePixels : Prop :=
  ∀ (x y : Reg) (n : Fin 16) (s : State), (n.val = 0 ∨ s.index.toNat + n.val ≤ 4096) →
    ∃ t, exec (.drw x y n) s = .next t ∧
      (∀ (r : Fin 32) (c : Fin 64), t.fb[r][c] ≠ s.fb[r][c] ↔
        ∃ k b, k < n.val ∧ b < 8 ∧ r.val = (s.reg y).toNat % 32 + k ∧ c.val = (s.reg x).toNat % 64 + b ∧
          (s.mem.read (s.index.toNat + k)).getLsbD (7 - b) = true) ∧
      t.pc = s.pc + 2 ∧ RegsUnchangedBut [Reg.flag] s t ∧ UnchangedBut [.screen, .regs, .pc] s t

/-- After a DRW that does not fault, VF is 1 exactly when some cell went from set to clear in it, otherwise 0 (R208). -/
def Obligations.DrawFlagIsCollision : Prop :=
  ∀ (x y : Reg) (n : Fin 16) (s t : State), (n.val = 0 ∨ s.index.toNat + n.val ≤ 4096) →
    exec (.drw x y n) s = .next t →
    ((∃ (r : Fin 32) (c : Fin 64), s.fb[r][c] = true ∧ t.fb[r][c] = false) → t.reg Reg.flag = 1) ∧
    ((¬ ∃ (r : Fin 32) (c : Fin 64), s.fb[r][c] = true ∧ t.fb[r][c] = false) → t.reg Reg.flag = 0)

/-- DRW with a sprite byte past 0xFFF raises READ_OOB, even where that row would be clipped. Spec decision D17. -/
def Obligations.DrawPastMemoryFaults : Prop :=
  ∀ (x y : Reg) (n : Fin 16) (s : State), n.val > 0 → s.index.toNat + n.val - 1 > 0xFFF →
    ∃ t, exec (.drw x y n) s = .next t ∧ t.status = ⟨.fault, .readOob, s.pc, encode (.drw x y n)⟩ ∧
      UnchangedBut [.status] s t

/-- Drawing the same sprite twice, with neither coordinate in VF, restores the screen, and the second draw sets VF to 1
iff the first turned some cell on, else 0. Spec inference R202. -/
def Obligations.DrawTwiceRestoresScreen : Prop :=
  ∀ (x y : Reg) (n : Fin 16) (s : State), x ≠ Reg.flag → y ≠ Reg.flag →
    (n.val = 0 ∨ s.index.toNat + n.val ≤ 4096) →
    ∃ t u, exec (.drw x y n) s = .next t ∧ exec (.drw x y n) t = .next u ∧
      (∀ (r : Fin 32) (c : Fin 64), u.fb[r][c] = s.fb[r][c]) ∧
      ((∃ (r : Fin 32) (c : Fin 64), s.fb[r][c] = false ∧ t.fb[r][c] = true) → u.reg Reg.flag = 1) ∧
      ((¬ ∃ (r : Fin 32) (c : Fin 64), s.fb[r][c] = false ∧ t.fb[r][c] = true) → u.reg Reg.flag = 0)

/-- The inner loop body of R204's pseudocode: one pixel, on the framebuffer and the collision so far. -/
def drawPixel (byte : Byte) (py px b : Nat) (acc : Vector (Vector Bool 64) 32 × Bool) :
    Vector (Vector Bool 64) 32 × Bool :=
  if byte.getLsbD (7 - b) = true then
    if h : py < 32 ∧ px < 64 then
      (acc.1.set py (acc.1[py].set px (!acc.1[py][px])), acc.2 || acc.1[py][px])
    else acc
  else acc

/-- R204's two loops, pixel by pixel in the order written. -/
def drawLoop (fb : Vector (Vector Bool 64) 32) (ox oy : Nat) (sprite : List Byte) :
    Vector (Vector Bool 64) 32 × Bool :=
  (List.range sprite.length).foldl (fun acc r =>
    (List.range 8).foldl (fun acc b => drawPixel (sprite.getD r 0) (oy + r) (ox + b) b acc) acc) (fb, false)

/-- DRW by the sprite_collision_detector (R209) gives what the pixel-by-pixel pseudocode of R204 gives. -/
def Obligations.DrawRefinesPixelLoop : Prop :=
  ∀ (x y : Reg) (n : Fin 16) (s : State), (n.val = 0 ∨ s.index.toNat + n.val ≤ 4096) →
    ∃ t, exec (.drw x y n) s = .next t ∧
      (t.fb, t.reg Reg.flag == 1) = drawLoop s.fb ((s.reg x).toNat % 64) ((s.reg y).toNat % 32)
        ((List.range n.val).map fun k => s.mem.read (s.index.toNat + k))

/-! ## Memory block (spec/45_memory_block.md) -/

/-- LD_MEM_VX, with its x bytes inside memory, stores V0..V(x-1) at I on, no other byte, and leaves I. Exclusive bound
and unchanged I: spec decision D13. -/
def Obligations.StoreBlockWritesRegisters : Prop :=
  ∀ (x : Reg) (s : State), (x.val = 0 ∨ s.base + x.val ≤ 4096) →
    ∃ t, exec (.ldMemVx x) s = .next t ∧ (∀ r : Reg, r.val < x.val → t.mem.read (s.base + r.val) = s.reg r) ∧
      MemoryUnchangedOutside s.base x.val s t ∧ t.pc = s.pc + 2 ∧ UnchangedBut [.memory, .pc] s t

/-- LD_VX_MEM, with its x bytes inside memory, loads V0..V(x-1) from I on, no other register, and leaves I and memory.
Exclusive bound and unchanged I: spec decision D13. -/
def Obligations.LoadBlockReadsMemory : Prop :=
  ∀ (x : Reg) (s : State), (x.val = 0 ∨ s.base + x.val ≤ 4096) →
    ∃ t, exec (.ldVxMem x) s = .next t ∧ (∀ r : Reg, r.val < x.val → t.reg r = s.mem.read (s.base + r.val)) ∧
      (∀ r : Reg, x.val ≤ r.val → t.reg r = s.reg r) ∧ t.pc = s.pc + 2 ∧ UnchangedBut [.regs, .pc] s t

/-- LD_B, with its three bytes inside memory, stores the hundreds, tens and ones of V[x] at I, I + 1, I + 2, no other
byte, and leaves I. Digit addresses: spec decision D14. -/
def Obligations.DecimalStoreWritesDigits : Prop :=
  ∀ (x : Reg) (s : State), s.base + 3 ≤ 4096 →
    ∃ t, exec (.ldB x) s = .next t ∧
      100 * (t.mem.read s.base).toNat + 10 * (t.mem.read (s.base + 1)).toNat + (t.mem.read (s.base + 2)).toNat =
        (s.reg x).toNat ∧
      (t.mem.read (s.base + 1)).toNat ≤ 9 ∧ (t.mem.read (s.base + 2)).toNat ≤ 9 ∧
      MemoryUnchangedOutside s.base 3 s t ∧ t.pc = s.pc + 2 ∧ UnchangedBut [.memory, .pc] s t

/-- LD_MEM_VX and LD_B raise WRITE_OOB, and LD_VX_MEM raises READ_OOB, where a byte of the access lies past 0xFFF; then
nothing is written but the status register. Spec decision D4. -/
def Obligations.BlockAccessPastMemoryFaults : Prop :=
  ∀ (x : Reg) (s : State),
    (x.val > 0 → s.index.toNat + x.val - 1 > 0xFFF → ∃ t, exec (.ldMemVx x) s = .next t ∧
      t.status = ⟨.fault, .writeOob, s.pc, encode (.ldMemVx x)⟩ ∧ UnchangedBut [.status] s t) ∧
    (x.val > 0 → s.index.toNat + x.val - 1 > 0xFFF → ∃ t, exec (.ldVxMem x) s = .next t ∧
      t.status = ⟨.fault, .readOob, s.pc, encode (.ldVxMem x)⟩ ∧ UnchangedBut [.status] s t) ∧
    (s.index.toNat + 2 > 0xFFF → ∃ t, exec (.ldB x) s = .next t ∧
      t.status = ⟨.fault, .writeOob, s.pc, encode (.ldB x)⟩ ∧ UnchangedBut [.status] s t)

/-- What LD_MEM_VX stored, LD_VX_MEM with the same I loads back, whatever happened to other state between. -/
def Obligations.StoreThenLoadReturnsRegisters : Prop :=
  ∀ (x : Reg) (s t s2 : State), (x.val = 0 ∨ s.base + x.val ≤ 4096) → exec (.ldMemVx x) s = .next t →
    s2.mem = t.mem → s2.index = s.index →
    ∃ u, exec (.ldVxMem x) s2 = .next u ∧ ∀ r : Reg, r.val < x.val → u.reg r = s.reg r

/-- A word stored over the next instruction is the word the next step fetches: V0 is its high byte and V1 its low byte.
Spec decision D26 and the byte order D2. -/
def Obligations.StoredWordIsFetchedNext : Prop :=
  ∀ (x : Reg) (s : State), 2 ≤ x.val → s.base + x.val ≤ 4096 → s.base = s.pc.toNat + 2 →
    ∃ t w, exec (.ldMemVx x) s = .next t ∧ t.fetch = some w ∧
      w.toNat = 256 * (s.reg 0).toNat + (s.reg 1).toNat

/-! ## Timers, key wait, index (spec/46_timer_key_index.md) -/

/-- LD_VX_DT reads DT into V[x] (R240), LD_DT_VX writes V[x] into DT (R241), LD_ST_VX writes V[x] into ST (R242);
nothing else changes but pc. -/
def Obligations.TimerInstructionsMoveBytes : Prop :=
  ∀ (x : Reg) (s : State),
    (∃ t, exec (.ldVxDt x) s = .next t ∧ t.reg x = s.dt ∧ t.pc = s.pc + 2 ∧
      RegsUnchangedBut [x] s t ∧ UnchangedBut [.regs, .pc] s t) ∧
    (∃ t, exec (.ldDtVx x) s = .next t ∧ t.dt = s.reg x ∧ t.pc = s.pc + 2 ∧ UnchangedBut [.dt, .pc] s t) ∧
    (∃ t, exec (.ldStVx x) s = .next t ∧ t.st = s.reg x ∧ t.pc = s.pc + 2 ∧ UnchangedBut [.st, .pc] s t)

/-- LD_VX_K with a key pressed loads the lowest pressed key's index and goes on. Lowest: spec decision D19. -/
def Obligations.KeyWaitLoadsLowestKey : Prop :=
  ∀ (x : Reg) (s : State) (k : Fin 16), s.key[k] = true → (∀ j : Fin 16, j < k → s.key[j] = false) →
    ∃ t, exec (.ldVxK x) s = .next t ∧ (t.reg x).toNat = k.val ∧ t.pc = s.pc + 2 ∧
      RegsUnchangedBut [x] s t ∧ UnchangedBut [.regs, .pc] s t

/-- While no key is pressed, any number of steps at an LD_VX_K leaves the whole state as it was, pc included. Spec
inference R247. -/
def Obligations.KeyWaitPolls : Prop :=
  ∀ (n : Nat) (x : Reg) (s : State), s.status.state = .run → s.fetch = some (encode (.ldVxK x)) →
    (∀ k : Fin 16, s.key[k] = false) →
    exec (.ldVxK x) s = .next s ∧ Host.Core.run Sys2Proof.core n s = .next s

/-- LD_I sets I to nnn (R250); ADD_I sets I to I + V[x] modulo 2^16 and writes no flag (R251, R29); nothing else changes
but pc. -/
def Obligations.IndexLoadsAndAdds : Prop :=
  (∀ (nnn : Addr12) (s : State), ∃ t, exec (.ldI nnn) s = .next t ∧ t.index.toNat = nnn.toNat ∧ t.pc = s.pc + 2 ∧
    UnchangedBut [.index, .pc] s t) ∧
  (∀ (x : Reg) (s : State), ∃ t, exec (.addI x) s = .next t ∧
    t.index.toNat = (s.index.toNat + (s.reg x).toNat) % 65536 ∧ t.pc = s.pc + 2 ∧ UnchangedBut [.index, .pc] s t)

/-- LD_F sets I to 0x50 + 5 * V[x], on the whole byte (spec decision D20), and changes nothing else but pc. -/
def Obligations.FontAddressIsScaledDigit : Prop :=
  ∀ (x : Reg) (s : State), ∃ t, exec (.ldF x) s = .next t ∧ t.index.toNat = 0x50 + 5 * (s.reg x).toNat ∧
    t.pc = s.pc + 2 ∧ UnchangedBut [.index, .pc] s t

/-! ## The no-op (spec/30_encoding.md R92) -/

/-- A step at an unmapped word, and exec of its no-op, advance pc by 2 and change nothing else (R92). -/
def Obligations.UnmappedWordIsNoOp : Prop :=
  ∀ (w : Word) (s : State), unmappedWord w = true →
    (∃ t, exec (.nop w) s = .next t ∧ t.pc = s.pc + 2 ∧ UnchangedBut [.pc] s t) ∧
    (s.status.state = .run → s.fetch = some w →
      ∃ t, step s = .next t ∧ t.pc = s.pc + 2 ∧ UnchangedBut [.pc] s t)

/-! ## The host (spec/60_exceptions.md, spec/70_reset_and_hazards.md) -/

/-- init accepts an image of at most 3584 bytes and fails with the capacity error, giving no state, above that (R341).
That every shorter length, 0 and odd ones too, is accepted is spec decision D33. -/
def Obligations.InitChecksCapacity : Prop :=
  ∀ (font : Font) (image : List Byte),
    (image.length ≤ 4096 - 512 → ∃ s, State.init font image = .ok s) ∧
    (image.length > 4096 - 512 → State.init font image = .error .capacity)

/-- After a successful init every V is 0 (R24), pc is 0x200 (R27), sp and every slot are 0 (R32), DT and ST are 0
(R34). -/
def Obligations.InitLeavesResetValues : Prop :=
  ∀ (font : Font) (image : List Byte) (s : State), State.init font image = .ok s →
    (∀ r, s.reg r = 0) ∧ s.pc = 0x200 ∧ s.sp = 0 ∧ (∀ j : Fin 16, s.stack[j] = 0) ∧ s.dt = 0 ∧ s.st = 0

/-- After a successful init memory holds the image at 0x200, FONT at 0x50 and 0 elsewhere, the screen is clear, no key
is pressed, I is 0 (spec decision D28) and the status register is clear (spec decision D5); for every FONT. -/
def Obligations.InitLoadsImageAndFont : Prop :=
  ∀ (font : Font) (image : List Byte) (s : State), State.init font image = .ok s →
    (∀ (k : Nat) (h : k < image.length), s.mem.read (0x200 + k) = image[k]) ∧
    (∀ k : Fin 80, s.mem.read (0x50 + k.val) = font[k]) ∧
    (∀ a, (a < 0x50 ∨ 0xA0 ≤ a) → (a < 0x200 ∨ 0x200 + image.length ≤ a) → s.mem.read a = 0) ∧
    (∀ (r : Fin 32) (c : Fin 64), s.fb[r][c] = false) ∧ (∀ k : Fin 16, s.key[k] = false) ∧ s.index = 0 ∧
    s.status = ⟨.run, .none, 0, 0⟩

/-- A tick takes one from each timer that is not zero, never below zero, and changes nothing else, in FAULT too. Spec
decision D23. -/
def Obligations.TickCountsDown : Prop :=
  ∀ s : State, s.tick.dt.toNat = s.dt.toNat - 1 ∧ s.tick.st.toNat = s.st.toNat - 1 ∧
    UnchangedBut [.dt, .st] s s.tick

/-- In FAULT no host move but init changes the status register or anything else but the timers, the keypad and the
random source; init of an accepted image leaves a core in RUN. Spec decision D5; the random source as the model holds it
is notes/assumptions/3.md. -/
def Obligations.FaultIsLeftOnlyByInit : Prop :=
  ∀ s : State, s.status.state = .fault →
    (∀ (m : Move) (t : State) (r : Reply), (∀ image, m ≠ .init image) → applyMove m s = .done t r →
      UnchangedBut [.dt, .st, .key, .random] s t) ∧
    (∀ image : List Byte, image.length ≤ 4096 - 512 →
      ∃ t, applyMove (.init image) s = .done t .ok ∧ t.status = ⟨.run, .none, 0, 0⟩)

/-- fb_out shows cell (r, c) at index r * 64 + c as 0xFFFFFFFF when set and 0x00000000 when clear. Spec decision D35. -/
def Obligations.ScreenOutputIsRowMajor : Prop :=
  ∀ (s : State) (r : Fin 32) (c : Fin 64),
    s.fbOut[r.val * 64 + c.val]'(by omega) = if s.fb[r][c] = true then 0xFFFFFFFF else 0x00000000

/-- At a jump to itself, the end of a run (R331, spec decision D30), any number of steps changes nothing. -/
def Obligations.SelfJumpStaysPut : Prop :=
  ∀ (n : Nat) (s : State), s.AtSelfJump → Host.Core.run Sys2Proof.core n s = .next s

/-! ## What an instruction cannot learn -/

/-- No instruction reads ST (R33): changing ST beforehand changes nothing of the outcome but ST, and not even ST after
LD_ST_VX. -/
def Obligations.SoundTimerIsNeverRead : Prop :=
  ∀ (i : Instr) (s : State) (b : Byte),
    mapNext (fun t => t.setSt 0) (exec i (s.setSt b)) = mapNext (fun t => t.setSt 0) (exec i s) ∧
    ∀ x, exec (.ldStVx x) (s.setSt b) = exec (.ldStVx x) s

/-- Only SKP, SKNP and LD_VX_K read the keypad (R35): any other instruction does the same whatever is pressed. -/
def Obligations.KeypadReachesOnlyKeyInstructions : Prop :=
  ∀ (i : Instr) (s : State) (k : Vector Bool 16), (∀ x ign, i ≠ .skp x ign) → (∀ x ign, i ≠ .sknp x ign) →
    (∀ x, i ≠ .ldVxK x) → exec i (s.setKeys k) = mapNext (fun t => t.setKeys k) (exec i s)

/-- Only RND reads the random source (R191): any other instruction does the same whatever bytes are to come. -/
def Obligations.RandomSourceReachesOnlyRnd : Prop :=
  ∀ (i : Instr) (s : State) (q : List Byte) (n : Nat), (∀ x kk, i ≠ .rnd x kk) →
    exec i { s with randIn := q, randCount := n } =
      mapNext (fun t => { t with randIn := q, randCount := n }) (exec i s)
end

