-- ==== Sys2Proof/Laws/Decode.lean ====
section
/-! SUPPORT. The fields of a word as natural numbers, the words the encoder packs as natural numbers, and the fields of
each packed word. -/

namespace Sys2Proof

/-! ## Fields as numbers (spec/30_encoding.md R81) -/

theorem fieldFamily_toNat (w : Word) : (fieldFamily w).toNat = w.toNat / 0x1000 % 16 := by
  simp [fieldFamily, BitVec.extractLsb'_toNat, Nat.shiftRight_eq_div_pow]

theorem fieldX_val (w : Word) : (fieldX w).val = w.toNat / 0x100 % 16 := by
  simp [fieldX, BitVec.extractLsb', Nat.shiftRight_eq_div_pow]

theorem fieldYBits_toNat (w : Word) : (fieldYBits w).toNat = w.toNat / 0x10 % 16 := by
  simp [fieldYBits, BitVec.extractLsb'_toNat, Nat.shiftRight_eq_div_pow]

theorem fieldY_val (w : Word) : (fieldY w).val = w.toNat / 0x10 % 16 := fieldYBits_toNat w

theorem fieldNBits_toNat (w : Word) : (fieldNBits w).toNat = w.toNat % 16 := by
  simp [fieldNBits, BitVec.extractLsb'_toNat, Nat.shiftRight_eq_div_pow]

theorem fieldN_val (w : Word) : (fieldN w).val = w.toNat % 16 := fieldNBits_toNat w

theorem fieldKk_toNat (w : Word) : (fieldKk w).toNat = w.toNat % 256 := by
  simp [fieldKk, BitVec.extractLsb'_toNat, Nat.shiftRight_eq_div_pow]

theorem fieldNnn_toNat (w : Word) : (fieldNnn w).toNat = w.toNat % 4096 := by
  simp [fieldNnn, BitVec.extractLsb'_toNat, Nat.shiftRight_eq_div_pow]

theorem fieldMid_toNat (w : Word) : (fieldMid w).toNat = w.toNat / 0x10 % 256 := by
  simp [fieldMid, BitVec.extractLsb'_toNat, Nat.shiftRight_eq_div_pow]

/-! ## Packed words as numbers -/

theorem packXYN_toNat (f x y n : BitVec 4) :
    (packXYN f x y n).toNat = f.toNat * 0x1000 + x.toNat * 0x100 + y.toNat * 0x10 + n.toNat := by
  simp only [packXYN, BitVec.toNat_ofNat]; omega

theorem packXKk_toNat (f x : BitVec 4) (kk : Byte) :
    (packXKk f x kk).toNat = f.toNat * 0x1000 + x.toNat * 0x100 + kk.toNat := by
  simp only [packXKk, BitVec.toNat_ofNat]; omega

theorem packNnn_toNat (f : BitVec 4) (nnn : Addr12) : (packNnn f nnn).toNat = f.toNat * 0x1000 + nnn.toNat := by
  simp only [packNnn, BitVec.toNat_ofNat]; omega

theorem packMidN_toNat (f : BitVec 4) (mid : Byte) (n : BitVec 4) :
    (packMidN f mid n).toNat = f.toNat * 0x1000 + mid.toNat * 0x10 + n.toNat := by
  simp only [packMidN, BitVec.toNat_ofNat]; omega

@[simp] theorem regBits_toNat (r : Fin 16) : (regBits r).toNat = r.val := rfl

@[simp] theorem wordOfBytes_toNat (hi lo : Byte) : (wordOfBytes hi lo).toNat = hi.toNat * 0x100 + lo.toNat := by
  simp only [wordOfBytes, BitVec.toNat_ofNat]; omega

/-! ## Fields of packed words -/

@[simp] theorem fieldFamily_packXYN (f x y n : BitVec 4) : fieldFamily (packXYN f x y n) = f := by
  apply BitVec.eq_of_toNat_eq; rw [fieldFamily_toNat, packXYN_toNat]; omega

@[simp] theorem fieldX_packXYN (f : BitVec 4) (x : Fin 16) (y n : BitVec 4) :
    fieldX (packXYN f (regBits x) y n) = x := by
  apply Fin.ext; rw [fieldX_val, packXYN_toNat, regBits_toNat]; omega

@[simp] theorem fieldYBits_packXYN (f x y n : BitVec 4) : fieldYBits (packXYN f x y n) = y := by
  apply BitVec.eq_of_toNat_eq; rw [fieldYBits_toNat, packXYN_toNat]; omega

@[simp] theorem fieldY_packXYN (f x : BitVec 4) (y : Fin 16) (n : BitVec 4) :
    fieldY (packXYN f x (regBits y) n) = y := by
  apply Fin.ext; rw [fieldY_val, packXYN_toNat, regBits_toNat]; omega

@[simp] theorem fieldNBits_packXYN (f x y n : BitVec 4) : fieldNBits (packXYN f x y n) = n := by
  apply BitVec.eq_of_toNat_eq; rw [fieldNBits_toNat, packXYN_toNat]; omega

@[simp] theorem fieldN_packXYN (f x y : BitVec 4) (n : Fin 16) : fieldN (packXYN f x y (regBits n)) = n := by
  apply Fin.ext; rw [fieldN_val, packXYN_toNat, regBits_toNat]; omega

@[simp] theorem fieldFamily_packXKk (f x : BitVec 4) (kk : Byte) : fieldFamily (packXKk f x kk) = f := by
  apply BitVec.eq_of_toNat_eq; rw [fieldFamily_toNat, packXKk_toNat]; omega

@[simp] theorem fieldX_packXKk (f : BitVec 4) (x : Fin 16) (kk : Byte) : fieldX (packXKk f (regBits x) kk) = x := by
  apply Fin.ext; rw [fieldX_val, packXKk_toNat, regBits_toNat]; omega

@[simp] theorem fieldKk_packXKk (f x : BitVec 4) (kk : Byte) : fieldKk (packXKk f x kk) = kk := by
  apply BitVec.eq_of_toNat_eq; rw [fieldKk_toNat, packXKk_toNat]; omega

@[simp] theorem fieldFamily_packNnn (f : BitVec 4) (nnn : Addr12) : fieldFamily (packNnn f nnn) = f := by
  apply BitVec.eq_of_toNat_eq; rw [fieldFamily_toNat, packNnn_toNat]; omega

@[simp] theorem fieldNnn_packNnn (f : BitVec 4) (nnn : Addr12) : fieldNnn (packNnn f nnn) = nnn := by
  apply BitVec.eq_of_toNat_eq; rw [fieldNnn_toNat, packNnn_toNat]; omega

@[simp] theorem fieldFamily_packMidN (f : BitVec 4) (mid : Byte) (n : BitVec 4) :
    fieldFamily (packMidN f mid n) = f := by
  apply BitVec.eq_of_toNat_eq; rw [fieldFamily_toNat, packMidN_toNat]; omega

@[simp] theorem fieldMid_packMidN (f : BitVec 4) (mid : Byte) (n : BitVec 4) : fieldMid (packMidN f mid n) = mid := by
  apply BitVec.eq_of_toNat_eq; rw [fieldMid_toNat, packMidN_toNat]; omega

@[simp] theorem fieldNBits_packMidN (f : BitVec 4) (mid : Byte) (n : BitVec 4) :
    fieldNBits (packMidN f mid n) = n := by
  apply BitVec.eq_of_toNat_eq; rw [fieldNBits_toNat, packMidN_toNat]; omega

/-! ## A word is its fields -/

theorem packXYN_fields (w : Word) :
    packXYN (fieldFamily w) (regBits (fieldX w)) (regBits (fieldY w)) (fieldNBits w) = w := by
  apply BitVec.eq_of_toNat_eq
  rw [packXYN_toNat, fieldFamily_toNat, regBits_toNat, regBits_toNat, fieldX_val, fieldY_val, fieldNBits_toNat]; omega

theorem packXKk_fields (w : Word) : packXKk (fieldFamily w) (regBits (fieldX w)) (fieldKk w) = w := by
  apply BitVec.eq_of_toNat_eq
  rw [packXKk_toNat, fieldFamily_toNat, regBits_toNat, fieldX_val, fieldKk_toNat]; omega

theorem packNnn_fields (w : Word) : packNnn (fieldFamily w) (fieldNnn w) = w := by
  apply BitVec.eq_of_toNat_eq
  rw [packNnn_toNat, fieldFamily_toNat, fieldNnn_toNat]; omega

theorem packMidN_fields (w : Word) : packMidN (fieldFamily w) (fieldMid w) (fieldNBits w) = w := by
  apply BitVec.eq_of_toNat_eq
  rw [packMidN_toNat, fieldFamily_toNat, fieldMid_toNat, fieldNBits_toNat]; omega

/-! ## The masks of the opcode table (T-R90) as arithmetic on fields -/

theorem and_0x000F_toNat (w : Word) : (w &&& 0x000F#16).toNat = w.toNat % 16 := by
  rw [BitVec.toNat_and]; exact Nat.and_two_pow_sub_one_eq_mod w.toNat 4

theorem and_0x00FF_toNat (w : Word) : (w &&& 0x00FF#16).toNat = w.toNat % 256 := by
  rw [BitVec.toNat_and]; exact Nat.and_two_pow_sub_one_eq_mod w.toNat 8

theorem and_0xF000_toNat (w : Word) : (w &&& 0xF000#16).toNat = (fieldFamily w).toNat * 0x1000 := by
  have h : w &&& 0xF000#16 = (w >>> 12) <<< 12 := by ext i hi; interval_cases i <;> simp
  rw [h, fieldFamily_toNat]
  simp only [BitVec.toNat_shiftLeft, BitVec.toNat_ushiftRight, Nat.shiftRight_eq_div_pow, Nat.shiftLeft_eq]
  omega

theorem and_0xF00F_toNat (w : Word) :
    (w &&& 0xF00F#16).toNat = (fieldFamily w).toNat * 0x1000 + (fieldNBits w).toNat := by
  have h : w &&& 0xF00F#16 = (w &&& 0xF000#16) + (w &&& 0x000F#16) := by
    rw [BitVec.add_eq_or_of_and_eq_zero] <;> (ext i hi; interval_cases i <;> simp)
  rw [h, BitVec.toNat_add, and_0xF000_toNat, and_0x000F_toNat, fieldNBits_toNat]
  omega

theorem and_0xF0FF_toNat (w : Word) :
    (w &&& 0xF0FF#16).toNat = (fieldFamily w).toNat * 0x1000 + (fieldKk w).toNat := by
  have h : w &&& 0xF0FF#16 = (w &&& 0xF000#16) + (w &&& 0x00FF#16) := by
    rw [BitVec.add_eq_or_of_and_eq_zero] <;> (ext i hi; interval_cases i <;> simp)
  rw [h, BitVec.toNat_add, and_0xF000_toNat, and_0x00FF_toNat, fieldKk_toNat]
  omega

/-- A row that examines the family alone selects a word by its family. -/
theorem selects_family {r : OpRow} (hm : r.mask = 0xF000#16) (w : Word) :
    r.selects w = true ↔ (fieldFamily w).toNat * 0x1000 = r.bits.toNat := by
  rw [OpRow.selects, hm, beq_iff_eq, ← BitVec.toNat_inj, and_0xF000_toNat]

/-- A row that examines family and n selects a word by them. -/
theorem selects_family_n {r : OpRow} (hm : r.mask = 0xF00F#16) (w : Word) :
    r.selects w = true ↔ (fieldFamily w).toNat * 0x1000 + (fieldNBits w).toNat = r.bits.toNat := by
  rw [OpRow.selects, hm, beq_iff_eq, ← BitVec.toNat_inj, and_0xF00F_toNat]

/-- A row that examines family and kk selects a word by them. -/
theorem selects_family_kk {r : OpRow} (hm : r.mask = 0xF0FF#16) (w : Word) :
    r.selects w = true ↔ (fieldFamily w).toNat * 0x1000 + (fieldKk w).toNat = r.bits.toNat := by
  rw [OpRow.selects, hm, beq_iff_eq, ← BitVec.toNat_inj, and_0xF0FF_toNat]

end Sys2Proof
end

