-- ==== Sys2Proof/Laws/State.lean ====
section
/-! SUPPORT. What each update of the state does to each field: one lemma per field per update, so that no proof unfolds
a record update. -/

namespace Sys2Proof.Machine

/-! ### State.setReg -/

@[simp] theorem State.setReg_v (s : State) (r : Reg) (b : Byte) : (s.setReg r b).v = s.v.set r b := rfl
@[simp] theorem State.setReg_index (s : State) (r : Reg) (b : Byte) : (s.setReg r b).index = s.index := rfl
@[simp] theorem State.setReg_pc (s : State) (r : Reg) (b : Byte) : (s.setReg r b).pc = s.pc := rfl
@[simp] theorem State.setReg_stack (s : State) (r : Reg) (b : Byte) : (s.setReg r b).stack = s.stack := rfl
@[simp] theorem State.setReg_sp (s : State) (r : Reg) (b : Byte) : (s.setReg r b).sp = s.sp := rfl
@[simp] theorem State.setReg_dt (s : State) (r : Reg) (b : Byte) : (s.setReg r b).dt = s.dt := rfl
@[simp] theorem State.setReg_st (s : State) (r : Reg) (b : Byte) : (s.setReg r b).st = s.st := rfl
@[simp] theorem State.setReg_key (s : State) (r : Reg) (b : Byte) : (s.setReg r b).key = s.key := rfl
@[simp] theorem State.setReg_fb (s : State) (r : Reg) (b : Byte) : (s.setReg r b).fb = s.fb := rfl
@[simp] theorem State.setReg_mem (s : State) (r : Reg) (b : Byte) : (s.setReg r b).mem = s.mem := rfl
@[simp] theorem State.setReg_status (s : State) (r : Reg) (b : Byte) : (s.setReg r b).status = s.status := rfl
@[simp] theorem State.setReg_randIn (s : State) (r : Reg) (b : Byte) : (s.setReg r b).randIn = s.randIn := rfl
@[simp] theorem State.setReg_randCount (s : State) (r : Reg) (b : Byte) : (s.setReg r b).randCount = s.randCount := rfl

/-! ### State.setRegsBelow -/

@[simp] theorem State.setRegsBelow_v (s : State) (n : Nat) (f : Nat → Byte) : (s.setRegsBelow n f).v = Vector.ofFn fun r : Fin 16 => if r.val < n then f r.val else s.v[r] := rfl
@[simp] theorem State.setRegsBelow_index (s : State) (n : Nat) (f : Nat → Byte) : (s.setRegsBelow n f).index = s.index := rfl
@[simp] theorem State.setRegsBelow_pc (s : State) (n : Nat) (f : Nat → Byte) : (s.setRegsBelow n f).pc = s.pc := rfl
@[simp] theorem State.setRegsBelow_stack (s : State) (n : Nat) (f : Nat → Byte) : (s.setRegsBelow n f).stack = s.stack := rfl
@[simp] theorem State.setRegsBelow_sp (s : State) (n : Nat) (f : Nat → Byte) : (s.setRegsBelow n f).sp = s.sp := rfl
@[simp] theorem State.setRegsBelow_dt (s : State) (n : Nat) (f : Nat → Byte) : (s.setRegsBelow n f).dt = s.dt := rfl
@[simp] theorem State.setRegsBelow_st (s : State) (n : Nat) (f : Nat → Byte) : (s.setRegsBelow n f).st = s.st := rfl
@[simp] theorem State.setRegsBelow_key (s : State) (n : Nat) (f : Nat → Byte) : (s.setRegsBelow n f).key = s.key := rfl
@[simp] theorem State.setRegsBelow_fb (s : State) (n : Nat) (f : Nat → Byte) : (s.setRegsBelow n f).fb = s.fb := rfl
@[simp] theorem State.setRegsBelow_mem (s : State) (n : Nat) (f : Nat → Byte) : (s.setRegsBelow n f).mem = s.mem := rfl
@[simp] theorem State.setRegsBelow_status (s : State) (n : Nat) (f : Nat → Byte) : (s.setRegsBelow n f).status = s.status := rfl
@[simp] theorem State.setRegsBelow_randIn (s : State) (n : Nat) (f : Nat → Byte) : (s.setRegsBelow n f).randIn = s.randIn := rfl
@[simp] theorem State.setRegsBelow_randCount (s : State) (n : Nat) (f : Nat → Byte) : (s.setRegsBelow n f).randCount = s.randCount := rfl

/-! ### State.setPc -/

@[simp] theorem State.setPc_v (s : State) (a : Word) : (s.setPc a).v = s.v := rfl
@[simp] theorem State.setPc_index (s : State) (a : Word) : (s.setPc a).index = s.index := rfl
@[simp] theorem State.setPc_pc (s : State) (a : Word) : (s.setPc a).pc = a := rfl
@[simp] theorem State.setPc_stack (s : State) (a : Word) : (s.setPc a).stack = s.stack := rfl
@[simp] theorem State.setPc_sp (s : State) (a : Word) : (s.setPc a).sp = s.sp := rfl
@[simp] theorem State.setPc_dt (s : State) (a : Word) : (s.setPc a).dt = s.dt := rfl
@[simp] theorem State.setPc_st (s : State) (a : Word) : (s.setPc a).st = s.st := rfl
@[simp] theorem State.setPc_key (s : State) (a : Word) : (s.setPc a).key = s.key := rfl
@[simp] theorem State.setPc_fb (s : State) (a : Word) : (s.setPc a).fb = s.fb := rfl
@[simp] theorem State.setPc_mem (s : State) (a : Word) : (s.setPc a).mem = s.mem := rfl
@[simp] theorem State.setPc_status (s : State) (a : Word) : (s.setPc a).status = s.status := rfl
@[simp] theorem State.setPc_randIn (s : State) (a : Word) : (s.setPc a).randIn = s.randIn := rfl
@[simp] theorem State.setPc_randCount (s : State) (a : Word) : (s.setPc a).randCount = s.randCount := rfl

/-! ### State.advance -/

@[simp] theorem State.advance_v (s : State) : s.advance.v = s.v := rfl
@[simp] theorem State.advance_index (s : State) : s.advance.index = s.index := rfl
@[simp] theorem State.advance_pc (s : State) : s.advance.pc = s.pc + 2 := rfl
@[simp] theorem State.advance_stack (s : State) : s.advance.stack = s.stack := rfl
@[simp] theorem State.advance_sp (s : State) : s.advance.sp = s.sp := rfl
@[simp] theorem State.advance_dt (s : State) : s.advance.dt = s.dt := rfl
@[simp] theorem State.advance_st (s : State) : s.advance.st = s.st := rfl
@[simp] theorem State.advance_key (s : State) : s.advance.key = s.key := rfl
@[simp] theorem State.advance_fb (s : State) : s.advance.fb = s.fb := rfl
@[simp] theorem State.advance_mem (s : State) : s.advance.mem = s.mem := rfl
@[simp] theorem State.advance_status (s : State) : s.advance.status = s.status := rfl
@[simp] theorem State.advance_randIn (s : State) : s.advance.randIn = s.randIn := rfl
@[simp] theorem State.advance_randCount (s : State) : s.advance.randCount = s.randCount := rfl

/-! ### State.setIndex -/

@[simp] theorem State.setIndex_v (s : State) (a : Word) : (s.setIndex a).v = s.v := rfl
@[simp] theorem State.setIndex_index (s : State) (a : Word) : (s.setIndex a).index = a := rfl
@[simp] theorem State.setIndex_pc (s : State) (a : Word) : (s.setIndex a).pc = s.pc := rfl
@[simp] theorem State.setIndex_stack (s : State) (a : Word) : (s.setIndex a).stack = s.stack := rfl
@[simp] theorem State.setIndex_sp (s : State) (a : Word) : (s.setIndex a).sp = s.sp := rfl
@[simp] theorem State.setIndex_dt (s : State) (a : Word) : (s.setIndex a).dt = s.dt := rfl
@[simp] theorem State.setIndex_st (s : State) (a : Word) : (s.setIndex a).st = s.st := rfl
@[simp] theorem State.setIndex_key (s : State) (a : Word) : (s.setIndex a).key = s.key := rfl
@[simp] theorem State.setIndex_fb (s : State) (a : Word) : (s.setIndex a).fb = s.fb := rfl
@[simp] theorem State.setIndex_mem (s : State) (a : Word) : (s.setIndex a).mem = s.mem := rfl
@[simp] theorem State.setIndex_status (s : State) (a : Word) : (s.setIndex a).status = s.status := rfl
@[simp] theorem State.setIndex_randIn (s : State) (a : Word) : (s.setIndex a).randIn = s.randIn := rfl
@[simp] theorem State.setIndex_randCount (s : State) (a : Word) : (s.setIndex a).randCount = s.randCount := rfl

/-! ### State.setDt -/

@[simp] theorem State.setDt_v (s : State) (b : Byte) : (s.setDt b).v = s.v := rfl
@[simp] theorem State.setDt_index (s : State) (b : Byte) : (s.setDt b).index = s.index := rfl
@[simp] theorem State.setDt_pc (s : State) (b : Byte) : (s.setDt b).pc = s.pc := rfl
@[simp] theorem State.setDt_stack (s : State) (b : Byte) : (s.setDt b).stack = s.stack := rfl
@[simp] theorem State.setDt_sp (s : State) (b : Byte) : (s.setDt b).sp = s.sp := rfl
@[simp] theorem State.setDt_dt (s : State) (b : Byte) : (s.setDt b).dt = b := rfl
@[simp] theorem State.setDt_st (s : State) (b : Byte) : (s.setDt b).st = s.st := rfl
@[simp] theorem State.setDt_key (s : State) (b : Byte) : (s.setDt b).key = s.key := rfl
@[simp] theorem State.setDt_fb (s : State) (b : Byte) : (s.setDt b).fb = s.fb := rfl
@[simp] theorem State.setDt_mem (s : State) (b : Byte) : (s.setDt b).mem = s.mem := rfl
@[simp] theorem State.setDt_status (s : State) (b : Byte) : (s.setDt b).status = s.status := rfl
@[simp] theorem State.setDt_randIn (s : State) (b : Byte) : (s.setDt b).randIn = s.randIn := rfl
@[simp] theorem State.setDt_randCount (s : State) (b : Byte) : (s.setDt b).randCount = s.randCount := rfl

/-! ### State.setSt -/

@[simp] theorem State.setSt_v (s : State) (b : Byte) : (s.setSt b).v = s.v := rfl
@[simp] theorem State.setSt_index (s : State) (b : Byte) : (s.setSt b).index = s.index := rfl
@[simp] theorem State.setSt_pc (s : State) (b : Byte) : (s.setSt b).pc = s.pc := rfl
@[simp] theorem State.setSt_stack (s : State) (b : Byte) : (s.setSt b).stack = s.stack := rfl
@[simp] theorem State.setSt_sp (s : State) (b : Byte) : (s.setSt b).sp = s.sp := rfl
@[simp] theorem State.setSt_dt (s : State) (b : Byte) : (s.setSt b).dt = s.dt := rfl
@[simp] theorem State.setSt_st (s : State) (b : Byte) : (s.setSt b).st = b := rfl
@[simp] theorem State.setSt_key (s : State) (b : Byte) : (s.setSt b).key = s.key := rfl
@[simp] theorem State.setSt_fb (s : State) (b : Byte) : (s.setSt b).fb = s.fb := rfl
@[simp] theorem State.setSt_mem (s : State) (b : Byte) : (s.setSt b).mem = s.mem := rfl
@[simp] theorem State.setSt_status (s : State) (b : Byte) : (s.setSt b).status = s.status := rfl
@[simp] theorem State.setSt_randIn (s : State) (b : Byte) : (s.setSt b).randIn = s.randIn := rfl
@[simp] theorem State.setSt_randCount (s : State) (b : Byte) : (s.setSt b).randCount = s.randCount := rfl

/-! ### State.setFb -/

@[simp] theorem State.setFb_v (s : State) (fb : Vector (Vector Bool 64) 32) : (s.setFb fb).v = s.v := rfl
@[simp] theorem State.setFb_index (s : State) (fb : Vector (Vector Bool 64) 32) : (s.setFb fb).index = s.index := rfl
@[simp] theorem State.setFb_pc (s : State) (fb : Vector (Vector Bool 64) 32) : (s.setFb fb).pc = s.pc := rfl
@[simp] theorem State.setFb_stack (s : State) (fb : Vector (Vector Bool 64) 32) : (s.setFb fb).stack = s.stack := rfl
@[simp] theorem State.setFb_sp (s : State) (fb : Vector (Vector Bool 64) 32) : (s.setFb fb).sp = s.sp := rfl
@[simp] theorem State.setFb_dt (s : State) (fb : Vector (Vector Bool 64) 32) : (s.setFb fb).dt = s.dt := rfl
@[simp] theorem State.setFb_st (s : State) (fb : Vector (Vector Bool 64) 32) : (s.setFb fb).st = s.st := rfl
@[simp] theorem State.setFb_key (s : State) (fb : Vector (Vector Bool 64) 32) : (s.setFb fb).key = s.key := rfl
@[simp] theorem State.setFb_fb (s : State) (fb : Vector (Vector Bool 64) 32) : (s.setFb fb).fb = fb := rfl
@[simp] theorem State.setFb_mem (s : State) (fb : Vector (Vector Bool 64) 32) : (s.setFb fb).mem = s.mem := rfl
@[simp] theorem State.setFb_status (s : State) (fb : Vector (Vector Bool 64) 32) : (s.setFb fb).status = s.status := rfl
@[simp] theorem State.setFb_randIn (s : State) (fb : Vector (Vector Bool 64) 32) : (s.setFb fb).randIn = s.randIn := rfl
@[simp] theorem State.setFb_randCount (s : State) (fb : Vector (Vector Bool 64) 32) : (s.setFb fb).randCount = s.randCount := rfl

/-! ### State.setMem -/

@[simp] theorem State.setMem_v (s : State) (m : Memory) : (s.setMem m).v = s.v := rfl
@[simp] theorem State.setMem_index (s : State) (m : Memory) : (s.setMem m).index = s.index := rfl
@[simp] theorem State.setMem_pc (s : State) (m : Memory) : (s.setMem m).pc = s.pc := rfl
@[simp] theorem State.setMem_stack (s : State) (m : Memory) : (s.setMem m).stack = s.stack := rfl
@[simp] theorem State.setMem_sp (s : State) (m : Memory) : (s.setMem m).sp = s.sp := rfl
@[simp] theorem State.setMem_dt (s : State) (m : Memory) : (s.setMem m).dt = s.dt := rfl
@[simp] theorem State.setMem_st (s : State) (m : Memory) : (s.setMem m).st = s.st := rfl
@[simp] theorem State.setMem_key (s : State) (m : Memory) : (s.setMem m).key = s.key := rfl
@[simp] theorem State.setMem_fb (s : State) (m : Memory) : (s.setMem m).fb = s.fb := rfl
@[simp] theorem State.setMem_mem (s : State) (m : Memory) : (s.setMem m).mem = m := rfl
@[simp] theorem State.setMem_status (s : State) (m : Memory) : (s.setMem m).status = s.status := rfl
@[simp] theorem State.setMem_randIn (s : State) (m : Memory) : (s.setMem m).randIn = s.randIn := rfl
@[simp] theorem State.setMem_randCount (s : State) (m : Memory) : (s.setMem m).randCount = s.randCount := rfl

/-! ### State.push -/

@[simp] theorem State.push_v (s : State) (a : Word) (h : s.sp.toNat < 16) : (s.push a h).v = s.v := rfl
@[simp] theorem State.push_index (s : State) (a : Word) (h : s.sp.toNat < 16) : (s.push a h).index = s.index := rfl
@[simp] theorem State.push_pc (s : State) (a : Word) (h : s.sp.toNat < 16) : (s.push a h).pc = s.pc := rfl
@[simp] theorem State.push_stack (s : State) (a : Word) (h : s.sp.toNat < 16) : (s.push a h).stack = s.stack.set s.sp.toNat a := rfl
@[simp] theorem State.push_sp (s : State) (a : Word) (h : s.sp.toNat < 16) : (s.push a h).sp = s.sp + 1 := rfl
@[simp] theorem State.push_dt (s : State) (a : Word) (h : s.sp.toNat < 16) : (s.push a h).dt = s.dt := rfl
@[simp] theorem State.push_st (s : State) (a : Word) (h : s.sp.toNat < 16) : (s.push a h).st = s.st := rfl
@[simp] theorem State.push_key (s : State) (a : Word) (h : s.sp.toNat < 16) : (s.push a h).key = s.key := rfl
@[simp] theorem State.push_fb (s : State) (a : Word) (h : s.sp.toNat < 16) : (s.push a h).fb = s.fb := rfl
@[simp] theorem State.push_mem (s : State) (a : Word) (h : s.sp.toNat < 16) : (s.push a h).mem = s.mem := rfl
@[simp] theorem State.push_status (s : State) (a : Word) (h : s.sp.toNat < 16) : (s.push a h).status = s.status := rfl
@[simp] theorem State.push_randIn (s : State) (a : Word) (h : s.sp.toNat < 16) : (s.push a h).randIn = s.randIn := rfl
@[simp] theorem State.push_randCount (s : State) (a : Word) (h : s.sp.toNat < 16) : (s.push a h).randCount = s.randCount := rfl

/-! ### State.popPc -/

@[simp] theorem State.popPc_v (s : State) (h : (s.sp - 1).toNat < 16) : (s.popPc h).v = s.v := rfl
@[simp] theorem State.popPc_index (s : State) (h : (s.sp - 1).toNat < 16) : (s.popPc h).index = s.index := rfl
@[simp] theorem State.popPc_pc (s : State) (h : (s.sp - 1).toNat < 16) : (s.popPc h).pc = s.stack[(s.sp - 1).toNat] := rfl
@[simp] theorem State.popPc_stack (s : State) (h : (s.sp - 1).toNat < 16) : (s.popPc h).stack = s.stack := rfl
@[simp] theorem State.popPc_sp (s : State) (h : (s.sp - 1).toNat < 16) : (s.popPc h).sp = s.sp - 1 := rfl
@[simp] theorem State.popPc_dt (s : State) (h : (s.sp - 1).toNat < 16) : (s.popPc h).dt = s.dt := rfl
@[simp] theorem State.popPc_st (s : State) (h : (s.sp - 1).toNat < 16) : (s.popPc h).st = s.st := rfl
@[simp] theorem State.popPc_key (s : State) (h : (s.sp - 1).toNat < 16) : (s.popPc h).key = s.key := rfl
@[simp] theorem State.popPc_fb (s : State) (h : (s.sp - 1).toNat < 16) : (s.popPc h).fb = s.fb := rfl
@[simp] theorem State.popPc_mem (s : State) (h : (s.sp - 1).toNat < 16) : (s.popPc h).mem = s.mem := rfl
@[simp] theorem State.popPc_status (s : State) (h : (s.sp - 1).toNat < 16) : (s.popPc h).status = s.status := rfl
@[simp] theorem State.popPc_randIn (s : State) (h : (s.sp - 1).toNat < 16) : (s.popPc h).randIn = s.randIn := rfl
@[simp] theorem State.popPc_randCount (s : State) (h : (s.sp - 1).toNat < 16) : (s.popPc h).randCount = s.randCount := rfl

/-! ### State.raise -/

@[simp] theorem State.raise_v (s : State) (c : Cause) (w : Word) : (s.raise c w).v = s.v := rfl
@[simp] theorem State.raise_index (s : State) (c : Cause) (w : Word) : (s.raise c w).index = s.index := rfl
@[simp] theorem State.raise_pc (s : State) (c : Cause) (w : Word) : (s.raise c w).pc = s.pc := rfl
@[simp] theorem State.raise_stack (s : State) (c : Cause) (w : Word) : (s.raise c w).stack = s.stack := rfl
@[simp] theorem State.raise_sp (s : State) (c : Cause) (w : Word) : (s.raise c w).sp = s.sp := rfl
@[simp] theorem State.raise_dt (s : State) (c : Cause) (w : Word) : (s.raise c w).dt = s.dt := rfl
@[simp] theorem State.raise_st (s : State) (c : Cause) (w : Word) : (s.raise c w).st = s.st := rfl
@[simp] theorem State.raise_key (s : State) (c : Cause) (w : Word) : (s.raise c w).key = s.key := rfl
@[simp] theorem State.raise_fb (s : State) (c : Cause) (w : Word) : (s.raise c w).fb = s.fb := rfl
@[simp] theorem State.raise_mem (s : State) (c : Cause) (w : Word) : (s.raise c w).mem = s.mem := rfl
@[simp] theorem State.raise_status (s : State) (c : Cause) (w : Word) : (s.raise c w).status = ⟨.fault, c, s.pc, w⟩ := rfl
@[simp] theorem State.raise_randIn (s : State) (c : Cause) (w : Word) : (s.raise c w).randIn = s.randIn := rfl
@[simp] theorem State.raise_randCount (s : State) (c : Cause) (w : Word) : (s.raise c w).randCount = s.randCount := rfl

/-! ### State.setKeys -/

@[simp] theorem State.setKeys_v (s : State) (k : Vector Bool 16) : (s.setKeys k).v = s.v := rfl
@[simp] theorem State.setKeys_index (s : State) (k : Vector Bool 16) : (s.setKeys k).index = s.index := rfl
@[simp] theorem State.setKeys_pc (s : State) (k : Vector Bool 16) : (s.setKeys k).pc = s.pc := rfl
@[simp] theorem State.setKeys_stack (s : State) (k : Vector Bool 16) : (s.setKeys k).stack = s.stack := rfl
@[simp] theorem State.setKeys_sp (s : State) (k : Vector Bool 16) : (s.setKeys k).sp = s.sp := rfl
@[simp] theorem State.setKeys_dt (s : State) (k : Vector Bool 16) : (s.setKeys k).dt = s.dt := rfl
@[simp] theorem State.setKeys_st (s : State) (k : Vector Bool 16) : (s.setKeys k).st = s.st := rfl
@[simp] theorem State.setKeys_key (s : State) (k : Vector Bool 16) : (s.setKeys k).key = k := rfl
@[simp] theorem State.setKeys_fb (s : State) (k : Vector Bool 16) : (s.setKeys k).fb = s.fb := rfl
@[simp] theorem State.setKeys_mem (s : State) (k : Vector Bool 16) : (s.setKeys k).mem = s.mem := rfl
@[simp] theorem State.setKeys_status (s : State) (k : Vector Bool 16) : (s.setKeys k).status = s.status := rfl
@[simp] theorem State.setKeys_randIn (s : State) (k : Vector Bool 16) : (s.setKeys k).randIn = s.randIn := rfl
@[simp] theorem State.setKeys_randCount (s : State) (k : Vector Bool 16) : (s.setKeys k).randCount = s.randCount := rfl

/-! ### State.tick -/

@[simp] theorem State.tick_v (s : State) : s.tick.v = s.v := rfl
@[simp] theorem State.tick_index (s : State) : s.tick.index = s.index := rfl
@[simp] theorem State.tick_pc (s : State) : s.tick.pc = s.pc := rfl
@[simp] theorem State.tick_stack (s : State) : s.tick.stack = s.stack := rfl
@[simp] theorem State.tick_sp (s : State) : s.tick.sp = s.sp := rfl
@[simp] theorem State.tick_dt (s : State) : s.tick.dt = tickTimer s.dt := rfl
@[simp] theorem State.tick_st (s : State) : s.tick.st = tickTimer s.st := rfl
@[simp] theorem State.tick_key (s : State) : s.tick.key = s.key := rfl
@[simp] theorem State.tick_fb (s : State) : s.tick.fb = s.fb := rfl
@[simp] theorem State.tick_mem (s : State) : s.tick.mem = s.mem := rfl
@[simp] theorem State.tick_status (s : State) : s.tick.status = s.status := rfl
@[simp] theorem State.tick_randIn (s : State) : s.tick.randIn = s.randIn := rfl
@[simp] theorem State.tick_randCount (s : State) : s.tick.randCount = s.randCount := rfl

/-! ### State.supplyRand -/

@[simp] theorem State.supplyRand_v (s : State) (b : Byte) : (s.supplyRand b).v = s.v := rfl
@[simp] theorem State.supplyRand_index (s : State) (b : Byte) : (s.supplyRand b).index = s.index := rfl
@[simp] theorem State.supplyRand_pc (s : State) (b : Byte) : (s.supplyRand b).pc = s.pc := rfl
@[simp] theorem State.supplyRand_stack (s : State) (b : Byte) : (s.supplyRand b).stack = s.stack := rfl
@[simp] theorem State.supplyRand_sp (s : State) (b : Byte) : (s.supplyRand b).sp = s.sp := rfl
@[simp] theorem State.supplyRand_dt (s : State) (b : Byte) : (s.supplyRand b).dt = s.dt := rfl
@[simp] theorem State.supplyRand_st (s : State) (b : Byte) : (s.supplyRand b).st = s.st := rfl
@[simp] theorem State.supplyRand_key (s : State) (b : Byte) : (s.supplyRand b).key = s.key := rfl
@[simp] theorem State.supplyRand_fb (s : State) (b : Byte) : (s.supplyRand b).fb = s.fb := rfl
@[simp] theorem State.supplyRand_mem (s : State) (b : Byte) : (s.supplyRand b).mem = s.mem := rfl
@[simp] theorem State.supplyRand_status (s : State) (b : Byte) : (s.supplyRand b).status = s.status := rfl
@[simp] theorem State.supplyRand_randIn (s : State) (b : Byte) : (s.supplyRand b).randIn = s.randIn ++ [b] := rfl
@[simp] theorem State.supplyRand_randCount (s : State) (b : Byte) : (s.supplyRand b).randCount = s.randCount := rfl

/-! ### State.skipIf -/

@[simp] theorem State.skipIf_v (s : State) (c : Bool) : (s.skipIf c).v = s.v := by cases c <;> rfl
@[simp] theorem State.skipIf_index (s : State) (c : Bool) : (s.skipIf c).index = s.index := by cases c <;> rfl
@[simp] theorem State.skipIf_pc (s : State) (c : Bool) : (s.skipIf c).pc = if c then s.pc + 2 else s.pc := by cases c <;> rfl
@[simp] theorem State.skipIf_stack (s : State) (c : Bool) : (s.skipIf c).stack = s.stack := by cases c <;> rfl
@[simp] theorem State.skipIf_sp (s : State) (c : Bool) : (s.skipIf c).sp = s.sp := by cases c <;> rfl
@[simp] theorem State.skipIf_dt (s : State) (c : Bool) : (s.skipIf c).dt = s.dt := by cases c <;> rfl
@[simp] theorem State.skipIf_st (s : State) (c : Bool) : (s.skipIf c).st = s.st := by cases c <;> rfl
@[simp] theorem State.skipIf_key (s : State) (c : Bool) : (s.skipIf c).key = s.key := by cases c <;> rfl
@[simp] theorem State.skipIf_fb (s : State) (c : Bool) : (s.skipIf c).fb = s.fb := by cases c <;> rfl
@[simp] theorem State.skipIf_mem (s : State) (c : Bool) : (s.skipIf c).mem = s.mem := by cases c <;> rfl
@[simp] theorem State.skipIf_status (s : State) (c : Bool) : (s.skipIf c).status = s.status := by cases c <;> rfl
@[simp] theorem State.skipIf_randIn (s : State) (c : Bool) : (s.skipIf c).randIn = s.randIn := by cases c <;> rfl
@[simp] theorem State.skipIf_randCount (s : State) (c : Bool) : (s.skipIf c).randCount = s.randCount := by cases c <;> rfl

/-! ### State.setFlag -/

@[simp] theorem State.setFlag_index (s : State) (f : Option Bool) : (s.setFlag f).index = s.index := by cases f <;> rfl
@[simp] theorem State.setFlag_pc (s : State) (f : Option Bool) : (s.setFlag f).pc = s.pc := by cases f <;> rfl
@[simp] theorem State.setFlag_stack (s : State) (f : Option Bool) : (s.setFlag f).stack = s.stack := by cases f <;> rfl
@[simp] theorem State.setFlag_sp (s : State) (f : Option Bool) : (s.setFlag f).sp = s.sp := by cases f <;> rfl
@[simp] theorem State.setFlag_dt (s : State) (f : Option Bool) : (s.setFlag f).dt = s.dt := by cases f <;> rfl
@[simp] theorem State.setFlag_st (s : State) (f : Option Bool) : (s.setFlag f).st = s.st := by cases f <;> rfl
@[simp] theorem State.setFlag_key (s : State) (f : Option Bool) : (s.setFlag f).key = s.key := by cases f <;> rfl
@[simp] theorem State.setFlag_fb (s : State) (f : Option Bool) : (s.setFlag f).fb = s.fb := by cases f <;> rfl
@[simp] theorem State.setFlag_mem (s : State) (f : Option Bool) : (s.setFlag f).mem = s.mem := by cases f <;> rfl
@[simp] theorem State.setFlag_status (s : State) (f : Option Bool) : (s.setFlag f).status = s.status := by cases f <;> rfl
@[simp] theorem State.setFlag_randIn (s : State) (f : Option Bool) : (s.setFlag f).randIn = s.randIn := by cases f <;> rfl
@[simp] theorem State.setFlag_randCount (s : State) (f : Option Bool) : (s.setFlag f).randCount = s.randCount := by cases f <;> rfl

/-! ### State.aluWrite -/

@[simp] theorem State.aluWrite_index (s : State) (x : Reg) (o : AluOut) : (s.aluWrite x o).index = s.index := by simp [State.aluWrite]
@[simp] theorem State.aluWrite_pc (s : State) (x : Reg) (o : AluOut) : (s.aluWrite x o).pc = s.pc := by simp [State.aluWrite]
@[simp] theorem State.aluWrite_stack (s : State) (x : Reg) (o : AluOut) : (s.aluWrite x o).stack = s.stack := by simp [State.aluWrite]
@[simp] theorem State.aluWrite_sp (s : State) (x : Reg) (o : AluOut) : (s.aluWrite x o).sp = s.sp := by simp [State.aluWrite]
@[simp] theorem State.aluWrite_dt (s : State) (x : Reg) (o : AluOut) : (s.aluWrite x o).dt = s.dt := by simp [State.aluWrite]
@[simp] theorem State.aluWrite_st (s : State) (x : Reg) (o : AluOut) : (s.aluWrite x o).st = s.st := by simp [State.aluWrite]
@[simp] theorem State.aluWrite_key (s : State) (x : Reg) (o : AluOut) : (s.aluWrite x o).key = s.key := by simp [State.aluWrite]
@[simp] theorem State.aluWrite_fb (s : State) (x : Reg) (o : AluOut) : (s.aluWrite x o).fb = s.fb := by simp [State.aluWrite]
@[simp] theorem State.aluWrite_mem (s : State) (x : Reg) (o : AluOut) : (s.aluWrite x o).mem = s.mem := by simp [State.aluWrite]
@[simp] theorem State.aluWrite_status (s : State) (x : Reg) (o : AluOut) : (s.aluWrite x o).status = s.status := by simp [State.aluWrite]
@[simp] theorem State.aluWrite_randIn (s : State) (x : Reg) (o : AluOut) : (s.aluWrite x o).randIn = s.randIn := by simp [State.aluWrite]
@[simp] theorem State.aluWrite_randCount (s : State) (x : Reg) (o : AluOut) : (s.aluWrite x o).randCount = s.randCount := by simp [State.aluWrite]

/-! ### State.aluStep -/

@[simp] theorem State.aluStep_index (s : State) (op : AluOp) (x : Reg) (b : Byte) : (s.aluStep op x b).index = s.index := by simp [State.aluStep]
@[simp] theorem State.aluStep_pc (s : State) (op : AluOp) (x : Reg) (b : Byte) : (s.aluStep op x b).pc = s.pc + 2 := by simp [State.aluStep]
@[simp] theorem State.aluStep_stack (s : State) (op : AluOp) (x : Reg) (b : Byte) : (s.aluStep op x b).stack = s.stack := by simp [State.aluStep]
@[simp] theorem State.aluStep_sp (s : State) (op : AluOp) (x : Reg) (b : Byte) : (s.aluStep op x b).sp = s.sp := by simp [State.aluStep]
@[simp] theorem State.aluStep_dt (s : State) (op : AluOp) (x : Reg) (b : Byte) : (s.aluStep op x b).dt = s.dt := by simp [State.aluStep]
@[simp] theorem State.aluStep_st (s : State) (op : AluOp) (x : Reg) (b : Byte) : (s.aluStep op x b).st = s.st := by simp [State.aluStep]
@[simp] theorem State.aluStep_key (s : State) (op : AluOp) (x : Reg) (b : Byte) : (s.aluStep op x b).key = s.key := by simp [State.aluStep]
@[simp] theorem State.aluStep_fb (s : State) (op : AluOp) (x : Reg) (b : Byte) : (s.aluStep op x b).fb = s.fb := by simp [State.aluStep]
@[simp] theorem State.aluStep_mem (s : State) (op : AluOp) (x : Reg) (b : Byte) : (s.aluStep op x b).mem = s.mem := by simp [State.aluStep]
@[simp] theorem State.aluStep_status (s : State) (op : AluOp) (x : Reg) (b : Byte) : (s.aluStep op x b).status = s.status := by simp [State.aluStep]
@[simp] theorem State.aluStep_randIn (s : State) (op : AluOp) (x : Reg) (b : Byte) : (s.aluStep op x b).randIn = s.randIn := by simp [State.aluStep]
@[simp] theorem State.aluStep_randCount (s : State) (op : AluOp) (x : Reg) (b : Byte) : (s.aluStep op x b).randCount = s.randCount := by simp [State.aluStep]

/-! ### State.drawn -/

@[simp] theorem State.drawn_v (s : State) : s.drawn.v = s.v := by
  unfold State.drawn
  split <;> simp_all
@[simp] theorem State.drawn_index (s : State) : s.drawn.index = s.index := by
  unfold State.drawn
  split <;> simp_all
@[simp] theorem State.drawn_pc (s : State) : s.drawn.pc = s.pc := by
  unfold State.drawn
  split <;> simp_all
@[simp] theorem State.drawn_stack (s : State) : s.drawn.stack = s.stack := by
  unfold State.drawn
  split <;> simp_all
@[simp] theorem State.drawn_sp (s : State) : s.drawn.sp = s.sp := by
  unfold State.drawn
  split <;> simp_all
@[simp] theorem State.drawn_dt (s : State) : s.drawn.dt = s.dt := by
  unfold State.drawn
  split <;> simp_all
@[simp] theorem State.drawn_st (s : State) : s.drawn.st = s.st := by
  unfold State.drawn
  split <;> simp_all
@[simp] theorem State.drawn_key (s : State) : s.drawn.key = s.key := by
  unfold State.drawn
  split <;> simp_all
@[simp] theorem State.drawn_fb (s : State) : s.drawn.fb = s.fb := by
  unfold State.drawn
  split <;> simp_all
@[simp] theorem State.drawn_mem (s : State) : s.drawn.mem = s.mem := by
  unfold State.drawn
  split <;> simp_all
@[simp] theorem State.drawn_status (s : State) : s.drawn.status = s.status := by
  unfold State.drawn
  split <;> simp_all
@[simp] theorem State.drawn_randIn (s : State) : s.drawn.randIn = s.randIn.tail := by
  unfold State.drawn
  split <;> simp_all
@[simp] theorem State.drawn_randCount (s : State) : s.drawn.randCount = if s.randIn = [] then s.randCount + 1 else s.randCount := by
  unfold State.drawn
  split <;> simp_all

/-! ### Registers -/

@[simp] theorem State.reg_setReg (s : State) (r q : Reg) (b : Byte) :
    (s.setReg r b).reg q = if q = r then b else s.reg q := by
  simp only [State.reg, State.setReg, Fin.getElem_fin, Vector.getElem_set, Fin.ext_iff, eq_comm]

theorem State.reg_congr (s t : State) (h : t.v = s.v) (r : Reg) : t.reg r = s.reg r := by
  simp only [State.reg, h]

@[simp] theorem State.reg_setRegsBelow (s : State) (n : Nat) (f : Nat → Byte) (q : Reg) :
    (s.setRegsBelow n f).reg q = if q.val < n then f q.val else s.reg q := by
  simp [State.reg, State.setRegsBelow]

@[simp] theorem State.reg_setPc (s : State) (a : Word) (q : Reg) : (s.setPc a).reg q = s.reg q :=
  State.reg_congr _ _ (by simp) q
@[simp] theorem State.reg_advance (s : State) (q : Reg) : s.advance.reg q = s.reg q :=
  State.reg_congr _ _ (by simp) q
@[simp] theorem State.reg_setIndex (s : State) (a : Word) (q : Reg) : (s.setIndex a).reg q = s.reg q :=
  State.reg_congr _ _ (by simp) q
@[simp] theorem State.reg_setDt (s : State) (b : Byte) (q : Reg) : (s.setDt b).reg q = s.reg q :=
  State.reg_congr _ _ (by simp) q
@[simp] theorem State.reg_setSt (s : State) (b : Byte) (q : Reg) : (s.setSt b).reg q = s.reg q :=
  State.reg_congr _ _ (by simp) q
@[simp] theorem State.reg_setFb (s : State) (fb : Vector (Vector Bool 64) 32) (q : Reg) : (s.setFb fb).reg q = s.reg q :=
  State.reg_congr _ _ (by simp) q
@[simp] theorem State.reg_setMem (s : State) (m : Memory) (q : Reg) : (s.setMem m).reg q = s.reg q :=
  State.reg_congr _ _ (by simp) q
@[simp] theorem State.reg_push (s : State) (a : Word) (h : s.sp.toNat < 16) (q : Reg) : (s.push a h).reg q = s.reg q :=
  State.reg_congr _ _ (by simp) q
@[simp] theorem State.reg_popPc (s : State) (h : (s.sp - 1).toNat < 16) (q : Reg) : (s.popPc h).reg q = s.reg q :=
  State.reg_congr _ _ (by simp) q
@[simp] theorem State.reg_raise (s : State) (c : Cause) (w : Word) (q : Reg) : (s.raise c w).reg q = s.reg q :=
  State.reg_congr _ _ (by simp) q
@[simp] theorem State.reg_setKeys (s : State) (k : Vector Bool 16) (q : Reg) : (s.setKeys k).reg q = s.reg q :=
  State.reg_congr _ _ (by simp) q
@[simp] theorem State.reg_tick (s : State) (q : Reg) : s.tick.reg q = s.reg q :=
  State.reg_congr _ _ (by simp) q
@[simp] theorem State.reg_supplyRand (s : State) (b : Byte) (q : Reg) : (s.supplyRand b).reg q = s.reg q :=
  State.reg_congr _ _ (by simp) q
@[simp] theorem State.reg_skipIf (s : State) (c : Bool) (q : Reg) : (s.skipIf c).reg q = s.reg q :=
  State.reg_congr _ _ (by simp) q
@[simp] theorem State.reg_drawn (s : State) (q : Reg) : s.drawn.reg q = s.reg q :=
  State.reg_congr _ _ (by simp) q

@[simp] theorem State.reg_setFlag (s : State) (f : Option Bool) (q : Reg) :
    (s.setFlag f).reg q = match f with
      | some b => if q = Reg.flag then flagByte b else s.reg q
      | none => s.reg q := by
  cases f <;> simp [State.setFlag]

end Sys2Proof.Machine
end

