-- ==== Sys2Proof/Laws/Memory.lean ====
section
/-! SUPPORT. The laws of memory: a read after a write, the canonical form, equal memories are equal data. -/

namespace Sys2Proof.Machine

/-! ## The list of cells -/

theorem cellAt_eq_none_of_lt {cells : List Host.Cell} {a : Nat} (h : ∀ c ∈ cells, a < c.1) : cellAt cells a = none := by
  induction cells with
  | nil => rfl
  | cons c rest ih =>
    have hc : ¬ c.1 = a := by have := h c (by simp); omega
    simp [cellAt, hc, ih fun d hd => h d (by simp [hd])]

theorem cellAt_removeCell (cells : List Host.Cell) (a k : Nat) :
    cellAt (removeCell cells a) k = if k = a then none else cellAt cells k := by
  induction cells with
  | nil => simp [removeCell, cellAt]
  | cons c rest ih =>
    obtain ⟨j, b⟩ := c
    unfold removeCell at ih ⊢
    by_cases hj : j = a
    · rw [List.filter_cons_of_neg (by simp [hj]), ih]
      by_cases hk : k = a
      · simp [hk]
      · simp [hk, cellAt, show ¬ j = k by omega]
    · rw [List.filter_cons_of_pos (by simp [hj])]
      simp only [cellAt, ih]
      by_cases hk : j = k
      · simp [hk, show ¬ k = a by omega]
      · simp [hk]

theorem cellAt_insertCell (cells : List Host.Cell) (a k : Nat) (b : Byte) :
    cellAt (insertCell cells a b) k = if k = a then some b else cellAt cells k := by
  induction cells with
  | nil => simp [insertCell, cellAt, eq_comm]
  | cons c rest ih =>
    obtain ⟨j, c⟩ := c
    simp only [insertCell]
    split
    · simp only [cellAt, eq_comm]
    · split
      · next h => subst h; simp only [cellAt, eq_comm]; split <;> simp_all
      · simp only [cellAt, ih]; split <;> split <;> simp_all

/-! ## Read and write -/

@[simp] theorem Memory.write_font (m : Memory) (a : Nat) (b : Byte) : (m.write a b).font = m.font := by
  unfold Memory.write; split <;> rfl

theorem Memory.initial_congr {m n : Memory} (h : m.font = n.font) (a : Nat) : m.initial a = n.initial a := by
  simp only [Memory.initial, h]

@[simp] theorem Memory.write_initial (m : Memory) (a : Nat) (b : Byte) (k : Nat) :
    (m.write a b).initial k = m.initial k := Memory.initial_congr (by simp) k

/-- A read gives the byte last written to the address, and no other address is touched (spec/20_memory.md R62). -/
@[simp] theorem Memory.read_write (m : Memory) (a k : Nat) (b : Byte) :
    (m.write a b).read k = if k = a then b else m.read k := by
  unfold Memory.read
  rw [Memory.write_initial]
  unfold Memory.write
  split
  · next h => rw [cellAt_removeCell]; split <;> simp_all
  · rw [cellAt_insertCell]; split <;> simp

@[simp] theorem Memory.writeBytes_font (m : Memory) (a : Nat) (bs : List Byte) :
    (m.writeBytes a bs).font = m.font := by
  induction bs generalizing m a with
  | nil => rfl
  | cons b rest ih => simp [Memory.writeBytes, ih]

/-- A read after a block write: byte k of the block at `a + k`, every other address as before. -/
theorem Memory.read_writeBytes (m : Memory) (a : Nat) (bs : List Byte) (k : Nat) :
    (m.writeBytes a bs).read k = if a ≤ k then (bs[k - a]?).getD (m.read k) else m.read k := by
  induction bs generalizing m a with
  | nil => simp [Memory.writeBytes]
  | cons b rest ih =>
    rw [Memory.writeBytes, ih, Memory.read_write]
    by_cases h : k = a
    · simp [h]
    · by_cases h2 : a + 1 ≤ k
      · obtain ⟨j, rfl⟩ : ∃ j, k = a + 1 + j := ⟨k - (a + 1), by omega⟩
        simp [show a + 1 + j - a = j + 1 by omega, show a ≤ a + 1 + j by omega, show a + 1 + j ≠ a by omega]
      · simp [h, h2, show ¬ a ≤ k by omega]

theorem Memory.read_writeBytes_outside (m : Memory) (a : Nat) (bs : List Byte) (k : Nat)
    (h : k < a ∨ a + bs.length ≤ k) : (m.writeBytes a bs).read k = m.read k := by
  rw [Memory.read_writeBytes]
  split
  · rw [List.getElem?_eq_none (by omega)]; rfl
  · rfl

theorem Memory.read_writeBytes_inside (m : Memory) (a : Nat) (bs : List Byte) (k : Nat) (h : k < bs.length) :
    (m.writeBytes a bs).read (a + k) = bs[k] := by
  rw [Memory.read_writeBytes]
  simp [h]

@[simp] theorem Memory.readBytes_length (m : Memory) (a n : Nat) : (m.readBytes a n).length = n := by
  simp [Memory.readBytes]

@[simp] theorem Memory.readBytes_getElem (m : Memory) (a n k : Nat) (h : k < (m.readBytes a n).length) :
    (m.readBytes a n)[k] = m.read (a + k) := by
  simp [Memory.readBytes]

/-! ## The canonical form -/

theorem mem_insertCell {cells : List Host.Cell} {a : Nat} {b : Byte} {c : Host.Cell}
    (h : c ∈ insertCell cells a b) : c = (a, b) ∨ c ∈ cells := by
  induction cells with
  | nil => simpa [insertCell] using h
  | cons d rest ih =>
    obtain ⟨j, e⟩ := d
    simp only [insertCell] at h
    split at h
    · simpa using h
    · split at h
      · simp only [List.mem_cons] at h ⊢; tauto
      · simp only [List.mem_cons] at h ⊢
        rcases h with h | h
        · tauto
        · have := ih h; tauto

theorem pairwise_insertCell {cells : List Host.Cell} (h : cells.Pairwise fun c d => c.1 < d.1) (a : Nat) (b : Byte) :
    (insertCell cells a b).Pairwise fun c d => c.1 < d.1 := by
  induction cells with
  | nil => simp [insertCell]
  | cons d rest ih =>
    obtain ⟨j, e⟩ := d
    rw [List.pairwise_cons] at h
    simp only [insertCell]
    split
    · next hlt =>
      refine List.pairwise_cons.2 ⟨fun c hc => ?_, List.pairwise_cons.2 h⟩
      rcases List.mem_cons.1 hc with rfl | hc
      · exact hlt
      · exact Nat.lt_trans hlt (h.1 c hc)
    · split
      · next heq => subst heq; exact List.pairwise_cons.2 h
      · refine List.pairwise_cons.2 ⟨fun c hc => ?_, ih h.2⟩
        rcases mem_insertCell hc with rfl | hc
        · simp only; omega
        · exact h.1 c hc

/-- A write inside memory keeps the canonical form. -/
theorem Memory.write_wf {m : Memory} (hm : m.wf) {a : Nat} (ha : a < Config.memSize) (b : Byte) : (m.write a b).wf := by
  obtain ⟨hp, hc⟩ := hm
  refine ⟨?_, fun c hcm => ?_⟩
  · unfold Memory.write
    split
    · exact hp.filter _
    · exact pairwise_insertCell hp a b
  · rw [Memory.write_initial]
    unfold Memory.write at hcm
    split at hcm
    · exact hc c (List.mem_filter.1 hcm).1
    · next hne =>
      rcases mem_insertCell hcm with rfl | hcm
      · exact ⟨ha, hne⟩
      · exact hc c hcm

/-- A block write inside memory keeps the canonical form. -/
theorem Memory.writeBytes_wf {m : Memory} (hm : m.wf) {a : Nat} {bs : List Byte}
    (h : bs = [] ∨ a + bs.length ≤ Config.memSize) : (m.writeBytes a bs).wf := by
  induction bs generalizing m a with
  | nil => exact hm
  | cons b rest ih =>
    have h' : a + (rest.length + 1) ≤ Config.memSize := by simpa using h
    exact ih (Memory.write_wf hm (by omega) b) (Or.inr (by omega))

/-- Memory with nothing listed is in canonical form, whatever FONT is. -/
theorem Memory.wf_empty (font : Font) : (Memory.mk font []).wf := by simp [Memory.wf]

theorem cellAt_of_mem {cells : List Host.Cell} (hp : cells.Pairwise fun c d => c.1 < d.1) {c : Host.Cell}
    (hc : c ∈ cells) : cellAt cells c.1 = some c.2 := by
  induction cells with
  | nil => simp at hc
  | cons d rest ih =>
    rw [List.pairwise_cons] at hp
    rcases List.mem_cons.1 hc with rfl | hc
    · simp [cellAt]
    · have : ¬ d.1 = c.1 := by have := hp.1 c hc; omega
      simp [cellAt, this, ih hp.2 hc]

theorem mem_of_cellAt {cells : List Host.Cell} {a : Nat} {b : Byte} (h : cellAt cells a = some b) : (a, b) ∈ cells := by
  induction cells with
  | nil => simp [cellAt] at h
  | cons d rest ih =>
    obtain ⟨j, e⟩ := d
    simp only [cellAt] at h
    split at h
    · next hj => subst hj; simp_all
    · exact List.mem_cons_of_mem _ (ih h)

/-- Two canonical memories of one FONT that read the same at every address are equal data. -/
theorem Memory.ext_of_wf {m n : Memory} (hm : m.wf) (hn : n.wf) (hf : m.font = n.font)
    (h : ∀ a, m.read a = n.read a) : m = n := by
  have sub : ∀ {p q : Memory}, p.wf → q.wf → p.font = q.font → (∀ a, p.read a = q.read a) →
      ∀ c ∈ p.cells, c ∈ q.cells := by
    intro p q hp hq hpq hr c hc
    have h1 : p.read c.1 = c.2 := by simp [Memory.read, cellAt_of_mem hp.1 hc]
    have h2 := (hp.2 c hc).2
    have h3 := hr c.1
    rw [h1] at h3
    unfold Memory.read at h3
    cases hq' : cellAt q.cells c.1 with
    | none => rw [hq', Memory.initial_congr hpq.symm] at h3; exact absurd h3 h2
    | some b => rw [hq'] at h3; simp only [Option.getD_some] at h3; have := mem_of_cellAt hq'; rw [← h3] at this; exact this
  have key : m.cells = n.cells := by
    apply List.Perm.eq_of_pairwise (le := fun c d : Host.Cell => c.1 < d.1) _ hm.1 hn.1
    · rw [List.perm_ext_iff_of_nodup]
      · exact fun c => ⟨sub hm hn hf h c, sub hn hm hf.symm (fun a => (h a).symm) c⟩
      · exact hm.1.imp fun h e => by rw [e] at h; omega
      · exact hn.1.imp fun h e => by rw [e] at h; omega
    · intro a b _ _ h1 h2; omega
  cases m; cases n; simp_all

end Sys2Proof.Machine
end

