-- ==== Sys2Proof/Laws/Ops.lean ====
section
/-! SUPPORT. One spec lemma for each shared operation: fetch, flags, operand forms, stack, random source, detector. -/

namespace Sys2Proof.Machine

/-! ## Fetch (spec/30_encoding.md R93) -/

theorem State.fetch_eq_none (s : State) (h : s.pc.toNat + 1 > 0xFFF) : s.fetch = none := by
  simp [State.fetch, h]

theorem State.fetch_eq_some (s : State) (h : s.pc.toNat + 1 ≤ 0xFFF) :
    s.fetch = some (wordOfBytes (s.mem.read s.pc.toNat) (s.mem.read (s.pc.toNat + 1))) := by
  simp only [State.fetch, if_neg (Nat.not_lt.2 h)]

theorem State.pc_le_of_fetch {s : State} {w : Word} (h : s.fetch = some w) : s.pc.toNat + 1 ≤ 0xFFF := by
  unfold State.fetch at h; split at h
  · simp at h
  · omega

/-- What `placeWord` stores is what the next fetch reads. -/
theorem State.fetch_placeWord (s : State) (w : Word) (h : s.pc.toNat + 1 ≤ 0xFFF) : (s.placeWord w).fetch = some w := by
  have hp : s.placeWord w = s.setMem (s.mem.writeBytes s.pc.toNat (bytesOfWord w)) := by
    simp only [State.placeWord, if_neg (Nat.not_lt.2 h)]
  rw [hp, State.fetch_eq_some _ (by simpa using h)]
  simp only [State.setMem_pc, State.setMem_mem]
  rw [show s.pc.toNat = s.pc.toNat + 0 from rfl, Memory.read_writeBytes_inside _ _ _ 0 (by simp [bytesOfWord]),
    Nat.add_zero, Memory.read_writeBytes_inside _ _ _ 1 (by simp [bytesOfWord])]
  congr 1
  apply BitVec.eq_of_toNat_eq
  rw [wordOfBytes_toNat]
  simp [bytesOfWord, BitVec.extractLsb'_toNat, Nat.shiftRight_eq_div_pow]
  omega

/-! ## pc arithmetic -/

theorem toNat_add_two {a : Word} (h : a.toNat + 2 < 65536) : (a + 2).toNat = a.toNat + 2 := by
  rw [BitVec.toNat_add]; simp; omega

theorem add_two_add_two (a : Word) : a + 2 + 2 = a + 4 := by rw [BitVec.add_assoc]; rfl

theorem add_two_sub_two (a : Word) : a + 2 - 2 = a := by simp

/-! ## alu_8bit (spec/42_alu.md T-R163) -/

@[simp] theorem flagByte_toNat (f : Bool) : (flagByte f).toNat = if f then 1 else 0 := by cases f <;> rfl

@[simp] theorem addByte_toNat (a b : Byte) : (addByte a b).toNat = (a.toNat + b.toNat) % 256 := by
  simp [addByte]

theorem subByte_toNat (a b : Byte) : ((subByte a b).toNat : Int) = ((a.toNat : Int) - b.toNat) % 256 := by
  simp only [subByte, BitVec.toNat_ofInt]; omega

theorem shr_toNat (a : Byte) : (a >>> 1).toNat = a.toNat / 2 := by
  simp [BitVec.toNat_ushiftRight, Nat.shiftRight_eq_div_pow]

theorem shl_toNat (a : Byte) : (a <<< 1).toNat = 2 * a.toNat % 256 := by
  simp [BitVec.toNat_shiftLeft, Nat.shiftLeft_eq]; omega

theorem lowBit_toNat (a : Byte) : (flagByte (a.getLsbD 0)).toNat = a.toNat % 2 := by
  rw [flagByte_toNat, BitVec.getLsbD, Nat.testBit_zero]; split <;> simp_all

theorem highBit_toNat (a : Byte) : (flagByte (a.getLsbD 7)).toNat = a.toNat / 128 := by
  have := a.isLt
  rw [flagByte_toNat, BitVec.getLsbD, Nat.testBit_eq_decide_div_mod_eq]; split <;> simp_all <;> omega

/-- Every register after an ALU instruction: VF holds the flag where there is one, V[x] the result, the rest is as
before. -/
theorem State.reg_aluStep (s : State) (op : AluOp) (x : Reg) (b : Byte) (q : Reg) :
    (s.aluStep op x b).reg q = match (alu op (s.reg x) b).flag with
      | some f => if q = Reg.flag then flagByte f else if q = x then (alu op (s.reg x) b).result else s.reg q
      | none => if q = x then (alu op (s.reg x) b).result else s.reg q := by
  simp only [State.aluStep, State.aluWrite, State.reg_setFlag, State.reg_setReg, State.reg_advance] <;>
    cases (alu op (s.reg x) b).flag <;> rfl

/-- An ALU instruction changes V and pc alone. -/
theorem State.aluStep_eq (s : State) (op : AluOp) (x : Reg) (b : Byte) :
    s.aluStep op x b = { s with v := (s.aluStep op x b).v, pc := s.pc + 2 } := by
  unfold State.aluStep State.aluWrite State.setFlag
  split <;> rfl

/-! ## Ranges, keys, digits -/

theorem State.outOfRange_iff (s : State) (n : Nat) : s.outOfRange n ↔ n > 0 ∧ 4096 < s.index.toNat + n := by
  unfold State.outOfRange State.base; omega

theorem keyIndex_of_lt {b : Byte} (h : b.toNat < 16) : keyIndex b = some ⟨b.toNat, h⟩ := by simp [keyIndex, h]

theorem keyIndex_of_ge {b : Byte} (h : 16 ≤ b.toNat) : keyIndex b = none := by
  simp only [keyIndex, dif_neg (Nat.not_lt.2 h)]

theorem lowestKey_eq_none_iff (key : Vector Bool 16) : lowestKey key = none ↔ ∀ k : Fin 16, key[k] = false := by
  simp [lowestKey, List.find?_eq_none]

theorem lowestKey_some {key : Vector Bool 16} {k : Fin 16} (h : lowestKey key = some k) :
    key[k] = true ∧ ∀ j : Fin 16, j < k → key[j] = false := by
  unfold lowestKey at h
  rw [List.find?_eq_some_iff_getElem] at h
  obtain ⟨hk, i, hi, hik, hlt⟩ := h
  refine ⟨hk, fun j hj => ?_⟩
  have e : k.val = i := by rw [← hik, List.getElem_finRange]; rfl
  have := hlt j.val (by omega)
  simpa [List.getElem_finRange] using this

/-- The key found is pressed and no lower one is. -/
theorem lowestKey_eq_some_iff (key : Vector Bool 16) (k : Fin 16) :
    lowestKey key = some k ↔ key[k] = true ∧ ∀ j : Fin 16, j < k → key[j] = false := by
  refine ⟨lowestKey_some, fun ⟨hk, hlt⟩ => ?_⟩
  cases hl : lowestKey key with
  | none => rw [lowestKey_eq_none_iff] at hl; rw [hl k] at hk; contradiction
  | some j =>
    obtain ⟨hj, hjl⟩ := lowestKey_some hl
    rcases lt_trichotomy j k with h | h | h
    · rw [hlt j h] at hj; contradiction
    · rw [h]
    · rw [hjl k h] at hk; contradiction

@[simp] theorem decimalDigits_length (b : Byte) : (decimalDigits b).length = 3 := rfl

/-! ## Registers as a block -/

theorem State.regsBelow_length (s : State) {n : Nat} (h : n ≤ 16) : (s.regsBelow n).length = n := by
  simp [State.regsBelow, h]

theorem State.regsBelow_getElem (s : State) (n k : Nat) (hk : k < (s.regsBelow n).length) :
    (s.regsBelow n)[k] = s.reg ⟨k, by simp [State.regsBelow] at hk; omega⟩ := by
  simp [State.regsBelow, State.reg]

/-! ## Random source (spec/43_random.md R191) -/

theorem State.drawn_eq (s : State) :
    s.drawn = { s with randIn := s.drawn.randIn, randCount := s.drawn.randCount } := by
  unfold State.drawn; split <;> rfl

/-! ## sprite_collision_detector (spec/44_display.md R206 to R209) -/

@[simp] theorem detectRow_cells (byte : Byte) (ox : Nat) (old : Vector Bool 64) (c : Fin 64) :
    (detectRow byte ox old).cells[c] =
      if ox ≤ c.val ∧ c.val < ox + 8 then old[c] ^^ spritePixel byte (c.val - ox) else old[c] := by
  simp [detectRow]

/-- A row hits exactly when some present cell is set under a set sprite pixel. -/
theorem detectRow_hit_iff (byte : Byte) (ox : Nat) (old : Vector Bool 64) :
    (detectRow byte ox old).hit = true ↔
      ∃ c : Fin 64, ox ≤ c.val ∧ c.val < ox + 8 ∧ old[c] = true ∧ spritePixel byte (c.val - ox) = true := by
  simp only [detectRow, List.any_eq_true, List.mem_range]
  constructor
  · rintro ⟨b, hb, h⟩
    split at h
    · next hlt =>
      rw [Bool.and_eq_true] at h
      exact ⟨⟨ox + b, hlt⟩, Nat.le_add_right _ _, by simp only; omega, h.1, by simpa using h.2⟩
    · simp at h
  · rintro ⟨c, h1, h2, h3, h4⟩
    refine ⟨c.val - ox, by omega, ?_⟩
    have e : ox + (c.val - ox) = c.val := by omega
    rw [dif_pos (by omega)]
    simp only [e, h4, Bool.and_true]
    exact h3

@[simp] theorem drawSprite_row (fb : Vector (Vector Bool 64) 32) (ox oy : Nat) (sprite : List Byte) (r : Fin 32) :
    (drawSprite fb ox oy sprite)[r] = match spriteRowAt sprite oy r.val with
      | some byte => (detectRow byte ox fb[r]).cells
      | none => fb[r] := by
  simp only [drawSprite, Fin.getElem_fin, Vector.getElem_ofFn] <;>
    cases spriteRowAt sprite oy r.val <;> rfl

theorem spriteRowAt_eq_some_iff (sprite : List Byte) (oy r : Nat) (byte : Byte) :
    spriteRowAt sprite oy r = some byte ↔ ∃ k, r = oy + k ∧ sprite[k]? = some byte := by
  unfold spriteRowAt
  constructor
  · intro h
    split at h
    · exact ⟨r - oy, by omega, h⟩
    · simp at h
  · rintro ⟨k, rfl, h⟩
    simpa using h

/-- A cell changes exactly when a set pixel of the sprite lands on it. -/
theorem drawSprite_ne_iff (fb : Vector (Vector Bool 64) 32) (ox oy : Nat) (sprite : List Byte) (r : Fin 32)
    (c : Fin 64) :
    (drawSprite fb ox oy sprite)[r][c] ≠ fb[r][c] ↔
      ∃ byte, spriteRowAt sprite oy r.val = some byte ∧ ox ≤ c.val ∧ c.val < ox + 8 ∧
        spritePixel byte (c.val - ox) = true := by
  rw [drawSprite_row]
  cases spriteRowAt sprite oy r.val with
  | none => simp
  | some byte =>
    simp only [detectRow_cells, Option.some.injEq, exists_eq_left']
    split
    · next h => cases fb[r][c] <;> cases spritePixel byte (c.val - ox) <;> simp [h]
    · next h => simp only [ne_eq, not_true, false_iff]; tauto

/-- There is a hit exactly when a cell goes from set to clear (R208). -/
theorem spriteHits_iff (fb : Vector (Vector Bool 64) 32) (ox oy : Nat) (sprite : List Byte) :
    spriteHits fb ox oy sprite = true ↔
      ∃ (r : Fin 32) (c : Fin 64), fb[r][c] = true ∧ (drawSprite fb ox oy sprite)[r][c] = false := by
  have flip : ∀ (r : Fin 32) (c : Fin 64), (fb[r][c] = true ∧ (drawSprite fb ox oy sprite)[r][c] = false) ↔
      fb[r][c] = true ∧ (drawSprite fb ox oy sprite)[r][c] ≠ fb[r][c] := by
    intro r c; cases fb[r][c] <;> cases (drawSprite fb ox oy sprite)[r][c] <;> simp
  simp only [flip, drawSprite_ne_iff]
  simp only [spriteHits, List.any_eq_true, List.mem_finRange, true_and]
  refine exists_congr fun r => ?_
  cases spriteRowAt sprite oy r.val with
  | none => simp
  | some byte =>
    simp only [detectRow_hit_iff, Option.some.injEq, exists_eq_left']
    exact exists_congr fun c => by tauto

end Sys2Proof.Machine
end

