-- ==== Sys2Proof/Laws/Exec.lean ====
section
/-! SUPPORT. The meanings that branch, on each of their branches. -/

namespace Sys2Proof.Machine

theorem sp_sub_one_toNat {s : State} (h : s.sp.toNat ≠ 0) : (s.sp - 1).toNat = s.sp.toNat - 1 := by
  have := s.sp.isLt
  rw [BitVec.toNat_sub]; simp; omega

theorem sp_add_one_toNat {s : State} (h : s.sp.toNat < 16) : (s.sp + 1).toNat = s.sp.toNat + 1 := by
  rw [BitVec.toNat_add]; simp; omega

/-! ## CALL and RET (spec/41_jump_call.md R134, R135) -/

theorem execCall_full {nnn : Addr12} {s : State} (h : s.sp.toNat = 16) :
    execCall nnn s = .next (s.raise .stackOverflow (encode (.call nnn))) := by
  have : s.sp = 16 := BitVec.eq_of_toNat_eq h
  simp [execCall, this]

theorem execCall_push {nnn : Addr12} {s : State} (h : s.sp.toNat < 16) :
    execCall nnn s = .next ((s.push (s.pc + 2) h).setPc (zextAddr nnn)) := by
  have h0 : ¬ s.sp = 16 := fun e => by rw [e] at h; exact absurd h (by decide)
  simp only [execCall, if_neg h0, dif_pos h, State.advance_pc]

theorem execRet_empty {ign : Byte} {s : State} (h : s.sp.toNat = 0) :
    execRet ign s = .next (s.raise .stackUnderflow (encode (.ret ign))) := by
  have : s.sp = 0 := BitVec.eq_of_toNat_eq h
  simp [execRet, this]

theorem execRet_pop {ign : Byte} {s : State} (h0 : s.sp.toNat ≠ 0) (h : (s.sp - 1).toNat < 16) :
    execRet ign s = .next (s.popPc h) := by
  have h1 : ¬ s.sp = 0 := fun e => h0 (by rw [e]; rfl)
  simp only [execRet, if_neg h1, dif_pos h]

/-! ## SKP and SKNP (spec/40_skip.md R114, R115) -/

theorem execSkp_key {x : Reg} {ign : BitVec 4} {s : State} {k : Fin 16} (h : (s.reg x).toNat = k.val) :
    execSkp x ign s = .next (s.advance.skipIf s.key[k]) := by
  have hk : keyIndex (s.reg x) = some k := by
    rw [keyIndex_of_lt (by omega : (s.reg x).toNat < 16)]; simp only [h]
  simp only [execSkp, hk]

theorem execSkp_fault {x : Reg} {ign : BitVec 4} {s : State} (h : (s.reg x).toNat > 15) :
    execSkp x ign s = .next (s.raise .keyIndex (encode (.skp x ign))) := by
  simp only [execSkp, keyIndex_of_ge (show 16 ≤ (s.reg x).toNat from h)]

theorem execSknp_key {x : Reg} {ign : BitVec 4} {s : State} {k : Fin 16} (h : (s.reg x).toNat = k.val) :
    execSknp x ign s = .next (s.advance.skipIf (!s.key[k])) := by
  have hk : keyIndex (s.reg x) = some k := by
    rw [keyIndex_of_lt (by omega : (s.reg x).toNat < 16)]; simp only [h]
  simp only [execSknp, hk]

theorem execSknp_fault {x : Reg} {ign : BitVec 4} {s : State} (h : (s.reg x).toNat > 15) :
    execSknp x ign s = .next (s.raise .keyIndex (encode (.sknp x ign))) := by
  simp only [execSknp, keyIndex_of_ge (show 16 ≤ (s.reg x).toNat from h)]

/-! ## Accesses through I (spec/44_display.md R204, spec/45_memory_block.md R220 to R222) -/

theorem State.inRange {s : State} {n : Nat} (h : n = 0 ∨ s.index.toNat + n ≤ 4096) : ¬ s.outOfRange n := by
  rw [State.outOfRange_iff]; omega

theorem execDrw_inRange {x y : Reg} {n : Fin 16} {s : State} (h : ¬ s.outOfRange n.val) :
    execDrw x y n s = .next
      ((s.advance.setFb (drawSprite s.fb (originColumn (s.reg x)) (originRow (s.reg y)) (s.sprite n.val))).setFlag
        (some (spriteHits s.fb (originColumn (s.reg x)) (originRow (s.reg y)) (s.sprite n.val)))) := by
  simp only [execDrw, if_neg h]

theorem execLdMemVx_inRange {x : Reg} {s : State} (h : ¬ s.outOfRange x.val) :
    execLdMemVx x s = .next (s.advance.setMem (s.mem.writeBytes s.base (s.regsBelow x.val))) := by
  simp only [execLdMemVx, if_neg h]

theorem execLdVxMem_inRange {x : Reg} {s : State} (h : ¬ s.outOfRange x.val) :
    execLdVxMem x s = .next (s.advance.setRegsBelow x.val fun k => s.mem.read (s.base + k)) := by
  simp only [execLdVxMem, if_neg h]

theorem execLdB_inRange {x : Reg} {s : State} (h : ¬ s.outOfRange 3) :
    execLdB x s = .next (s.advance.setMem (s.mem.writeBytes s.base (decimalDigits (s.reg x)))) := by
  simp only [execLdB, if_neg h]

/-! ## LD_VX_K (spec/46_timer_key_index.md R246) -/

theorem execLdVxK_wait {x : Reg} {s : State} (h : lowestKey s.key = none) : execLdVxK x s = .next s := by
  simp only [execLdVxK, h]
  congr 1
  simp only [State.advance, State.setPc, add_two_sub_two]

theorem execLdVxK_key {x : Reg} {s : State} {k : Fin 16} (h : lowestKey s.key = some k) :
    execLdVxK x s = .next (s.advance.setReg x (BitVec.ofNat 8 k.val)) := by
  simp only [execLdVxK, h]

end Sys2Proof.Machine
end

