-- ==== Sys2Proof/Laws/PerInstr.lean ====
section
/-! SUPPORT. Statements for all instructions, one lemma per constructor. -/

namespace Sys2Proof.Laws.OwnRow

/-- The word of an instruction is selected by the row of table T-R90 that bears its mnemonic; a no-op has no row. -/
def Statement (i : Instr) : Prop :=
  match opcodeRows.find? fun r => r.mnemonic == i.mnemonic with
  | some r => r.selects (encode i) = true
  | none => i = .nop (encode i)

theorem cls (ign : Byte) : Statement (.cls ign) :=
  (selects_family_n (r := ⟨"CLS", 0x0000, 0xF00F⟩) rfl _).2 (by simp [encode])

theorem ret (ign : Byte) : Statement (.ret ign) :=
  (selects_family_n (r := ⟨"RET", 0x000E, 0xF00F⟩) rfl _).2 (by simp [encode])

theorem jp (nnn : Addr12) : Statement (.jp nnn) :=
  (selects_family (r := ⟨"JP", 0x1000, 0xF000⟩) rfl _).2 (by simp [encode])

theorem call (nnn : Addr12) : Statement (.call nnn) :=
  (selects_family (r := ⟨"CALL", 0x2000, 0xF000⟩) rfl _).2 (by simp [encode])

theorem seImm (x : Reg) (kk : Byte) : Statement (.seImm x kk) :=
  (selects_family (r := ⟨"SE_IMM", 0x3000, 0xF000⟩) rfl _).2 (by simp [encode])

theorem sneImm (x : Reg) (kk : Byte) : Statement (.sneImm x kk) :=
  (selects_family (r := ⟨"SNE_IMM", 0x4000, 0xF000⟩) rfl _).2 (by simp [encode])

theorem seReg (x : Reg) (y : Reg) (ign : BitVec 4) : Statement (.seReg x y ign) :=
  (selects_family (r := ⟨"SE_REG", 0x5000, 0xF000⟩) rfl _).2 (by simp [encode])

theorem ldImm (x : Reg) (kk : Byte) : Statement (.ldImm x kk) :=
  (selects_family (r := ⟨"LD_IMM", 0x6000, 0xF000⟩) rfl _).2 (by simp [encode])

theorem addImm (x : Reg) (kk : Byte) : Statement (.addImm x kk) :=
  (selects_family (r := ⟨"ADD_IMM", 0x7000, 0xF000⟩) rfl _).2 (by simp [encode])

theorem ldReg (x : Reg) (y : Reg) : Statement (.ldReg x y) :=
  (selects_family_n (r := ⟨"LD_REG", 0x8000, 0xF00F⟩) rfl _).2 (by simp [encode])

theorem or (x : Reg) (y : Reg) : Statement (.or x y) :=
  (selects_family_n (r := ⟨"OR", 0x8001, 0xF00F⟩) rfl _).2 (by simp [encode])

theorem and (x : Reg) (y : Reg) : Statement (.and x y) :=
  (selects_family_n (r := ⟨"AND", 0x8002, 0xF00F⟩) rfl _).2 (by simp [encode])

theorem xor (x : Reg) (y : Reg) : Statement (.xor x y) :=
  (selects_family_n (r := ⟨"XOR", 0x8003, 0xF00F⟩) rfl _).2 (by simp [encode])

theorem addReg (x : Reg) (y : Reg) : Statement (.addReg x y) :=
  (selects_family_n (r := ⟨"ADD_REG", 0x8004, 0xF00F⟩) rfl _).2 (by simp [encode])

theorem sub (x : Reg) (y : Reg) : Statement (.sub x y) :=
  (selects_family_n (r := ⟨"SUB", 0x8005, 0xF00F⟩) rfl _).2 (by simp [encode])

theorem shr (x : Reg) (y : Reg) : Statement (.shr x y) :=
  (selects_family_n (r := ⟨"SHR", 0x8006, 0xF00F⟩) rfl _).2 (by simp [encode])

theorem subn (x : Reg) (y : Reg) : Statement (.subn x y) :=
  (selects_family_n (r := ⟨"SUBN", 0x8007, 0xF00F⟩) rfl _).2 (by simp [encode])

theorem shl (x : Reg) (y : Reg) : Statement (.shl x y) :=
  (selects_family_n (r := ⟨"SHL", 0x800E, 0xF00F⟩) rfl _).2 (by simp [encode])

theorem sneReg (x : Reg) (y : Reg) (ign : BitVec 4) : Statement (.sneReg x y ign) :=
  (selects_family (r := ⟨"SNE_REG", 0x9000, 0xF000⟩) rfl _).2 (by simp [encode])

theorem ldI (nnn : Addr12) : Statement (.ldI nnn) :=
  (selects_family (r := ⟨"LD_I", 0xA000, 0xF000⟩) rfl _).2 (by simp [encode])

theorem jpV0 (nnn : Addr12) : Statement (.jpV0 nnn) :=
  (selects_family (r := ⟨"JP_V0", 0xB000, 0xF000⟩) rfl _).2 (by simp [encode])

theorem rnd (x : Reg) (kk : Byte) : Statement (.rnd x kk) :=
  (selects_family (r := ⟨"RND", 0xC000, 0xF000⟩) rfl _).2 (by simp [encode])

theorem drw (x : Reg) (y : Reg) (n : Fin 16) : Statement (.drw x y n) :=
  (selects_family (r := ⟨"DRW", 0xD000, 0xF000⟩) rfl _).2 (by simp [encode])

theorem skp (x : Reg) (ign : BitVec 4) : Statement (.skp x ign) :=
  (selects_family_n (r := ⟨"SKP", 0xE00E, 0xF00F⟩) rfl _).2 (by simp [encode])

theorem sknp (x : Reg) (ign : BitVec 4) : Statement (.sknp x ign) :=
  (selects_family_n (r := ⟨"SKNP", 0xE001, 0xF00F⟩) rfl _).2 (by simp [encode])

theorem ldVxDt (x : Reg) : Statement (.ldVxDt x) :=
  (selects_family_kk (r := ⟨"LD_VX_DT", 0xF007, 0xF0FF⟩) rfl _).2 (by simp [encode])

theorem ldVxK (x : Reg) : Statement (.ldVxK x) :=
  (selects_family_kk (r := ⟨"LD_VX_K", 0xF00A, 0xF0FF⟩) rfl _).2 (by simp [encode])

theorem ldDtVx (x : Reg) : Statement (.ldDtVx x) :=
  (selects_family_kk (r := ⟨"LD_DT_VX", 0xF015, 0xF0FF⟩) rfl _).2 (by simp [encode])

theorem ldStVx (x : Reg) : Statement (.ldStVx x) :=
  (selects_family_kk (r := ⟨"LD_ST_VX", 0xF018, 0xF0FF⟩) rfl _).2 (by simp [encode])

theorem addI (x : Reg) : Statement (.addI x) :=
  (selects_family_kk (r := ⟨"ADD_I", 0xF01E, 0xF0FF⟩) rfl _).2 (by simp [encode])

theorem ldF (x : Reg) : Statement (.ldF x) :=
  (selects_family_kk (r := ⟨"LD_F", 0xF029, 0xF0FF⟩) rfl _).2 (by simp [encode])

theorem ldB (x : Reg) : Statement (.ldB x) :=
  (selects_family_kk (r := ⟨"LD_B", 0xF033, 0xF0FF⟩) rfl _).2 (by simp [encode])

theorem ldMemVx (x : Reg) : Statement (.ldMemVx x) :=
  (selects_family_kk (r := ⟨"LD_MEM_VX", 0xF055, 0xF0FF⟩) rfl _).2 (by simp [encode])

theorem ldVxMem (x : Reg) : Statement (.ldVxMem x) :=
  (selects_family_kk (r := ⟨"LD_VX_MEM", 0xF065, 0xF0FF⟩) rfl _).2 (by simp [encode])

theorem nop (w : Word) : Statement (.nop w) := rfl

end Sys2Proof.Laws.OwnRow
end

