-- ==== Sys2Proof/Tests/Slice0.lean ====
section
/-! SUPPORT. Tests of the model on the spec's own examples (spec/95_test_vectors.md, whose vector each test names), and a
witness for the hypotheses of every obligation that has some. -/

namespace Sys2Proof.Tests

open Sys2Proof Sys2Proof.Machine

/-- One step from reset, after a change of the state, at a given instruction word; then a check. -/
def stepOk (w : Nat) (setup : State → State) (check : State → Bool) : Bool :=
  holdsAfter (step ((setup State.reset).withFetchWord 16 w)) check

/-- A byte in memory. -/
def poke (a : Nat) (b : Byte) (s : State) : State := s.setMem (s.mem.write a b)

/-- A set framebuffer cell. -/
def light (r : Fin 32) (c : Fin 64) (s : State) : State := s.setFb (s.fb.set r (s.fb[r].set c true))

/-- A pressed key. -/
def press (k : Fin 16) (s : State) : State := s.setKeys (s.key.set k true)

/-- A stack pointer and one slot. -/
def stackAt (sp : BitVec 8) (j : Fin 16) (a : Word) (s : State) : State := { s with sp := sp, stack := s.stack.set j a }

/-! ## WellFormed (spec/30_encoding.md R92) -/

/-- A no-op is no instruction when its word is mapped: 0x00E0, 0x01EE, 0x1234, 0x5121, 0x8126, 0xE19E, 0xF165. -/
theorem test_wellFormed_refuses_mapped_words :
    [0x00E0, 0x01EE, 0x1234, 0x5121, 0x8126, 0xE19E, 0xF165].all (fun w => !(Instr.nop w).wellFormed) = true := by
  decide

/-- R92's corner cases and B1.7, B1.10 to B1.12. -/
theorem test_wellFormed_accepts_unmapped_words :
    [0x00E1, 0x0FFF, 0x0123, 0x8008, 0x8009, 0x800D, 0x800F, 0xE09F, 0xE1A2, 0xE100, 0xF000, 0xF0FF, 0xF166].all
      (fun w => (Instr.nop w).wellFormed) = true := by
  decide

/-! ## Decoding: a word of every constructor, written from table T-R90 -/

theorem test_decode_family_0 :
    decodeWord 0x00E0 = .cls 0x0E ∧ decodeWord 0x00EE = .ret 0x0E ∧ decodeWord 0x07A0 = .cls 0x7A ∧
    decodeWord 0x0123 = .nop 0x0123 := by decide

theorem test_decode_jumps :
    decodeWord 0x1ABC = .jp 0xABC ∧ decodeWord 0x2400 = .call 0x400 ∧ decodeWord 0xBFFE = .jpV0 0xFFE := by decide

theorem test_decode_skips :
    decodeWord 0x3312 = .seImm 3 0x12 ∧ decodeWord 0x4105 = .sneImm 1 0x05 ∧ decodeWord 0x5125 = .seReg 1 2 5 ∧
    decodeWord 0x9127 = .sneReg 1 2 7 ∧ decodeWord 0xE59E = .skp 5 9 ∧ decodeWord 0xE5A1 = .sknp 5 0xA := by decide

theorem test_decode_alu :
    decodeWord 0x6A12 = .ldImm 0xA 0x12 ∧ decodeWord 0x7A05 = .addImm 0xA 0x05 ∧ decodeWord 0x8120 = .ldReg 1 2 ∧
    decodeWord 0x8121 = .or 1 2 ∧ decodeWord 0x8122 = .and 1 2 ∧ decodeWord 0x8123 = .xor 1 2 ∧
    decodeWord 0x8124 = .addReg 1 2 ∧ decodeWord 0x8125 = .sub 1 2 ∧ decodeWord 0x8156 = .shr 1 5 ∧
    decodeWord 0x8127 = .subn 1 2 ∧ decodeWord 0x810E = .shl 1 0 ∧ decodeWord 0x8008 = .nop 0x8008 := by decide

theorem test_decode_index_random_draw :
    decodeWord 0xA050 = .ldI 0x050 ∧ decodeWord 0xC30F = .rnd 3 0x0F ∧ decodeWord 0xD125 = .drw 1 2 5 := by decide

theorem test_decode_family_F :
    decodeWord 0xF407 = .ldVxDt 4 ∧ decodeWord 0xF30A = .ldVxK 3 ∧ decodeWord 0xF415 = .ldDtVx 4 ∧
    decodeWord 0xF418 = .ldStVx 4 ∧ decodeWord 0xF21E = .addI 2 ∧ decodeWord 0xF129 = .ldF 1 ∧
    decodeWord 0xF333 = .ldB 3 ∧ decodeWord 0xF255 = .ldMemVx 2 ∧ decodeWord 0xF265 = .ldVxMem 2 ∧
    decodeWord 0xF166 = .nop 0xF166 := by decide

/-- The bytes of a word, high byte first (R54), and the spellings of R97. -/
theorem test_bytes_and_spelling :
    decode [0x6A, 0x12, 0xFF] = .ok (.ldImm 0xA 0x12, [0xFF]) ∧ decode [0x6A] = .error .truncated ∧
    assemble (.skp 3 0) = 0xE39E ∧ assemble (.sknp 3 0) = 0xE3A1 ∧ assemble (.cls 0) = 0x00E0 ∧
    assemble (.ret 0) = 0x00EE ∧ assemble (.shr 3 4) = 0x8346 ∧ decodeTableWord 16 0xF265 = some (.ldVxMem 2) := by
  decide

/-! ## Fetch and fault (B1) -/

/-- B1.4 -/
theorem test_fetch_oob : holdsAfter (step (State.reset.setPc 0xFFF)) (fun t =>
    t.status == ⟨.fault, .fetchOob, 0x0FFF, 0x0000⟩ && t.pc == 0x0FFF) = true := by decide

/-- B1.2: the last word of memory is fetched. -/
theorem test_fetch_last_word : holdsAfter (step (State.reset.setPc 0xFFE)) (fun t =>
    t.status == Status.clear && t.pc == 0x1000) = true := by decide

/-- B1.3: an odd pc fetches. -/
theorem test_fetch_odd : holdsAfter (step ((State.reset.setPc 0x201).withFetchWord 16 0x6A12)) (fun t =>
    t.reg 0xA == 0x12 && t.pc == 0x203) = true := by decide

/-! ## Skips (B2) -/

theorem test_seImm_B2_1 : stepOk 0x3105 (fun s => s.setReg 1 0x05) (fun t => t.pc == 0x204) = true := by decide
theorem test_seImm_B2_2 : stepOk 0x3105 (fun s => s.setReg 1 0x06) (fun t => t.pc == 0x202) = true := by decide
theorem test_sneImm_B2_3 : stepOk 0x4105 (fun s => s.setReg 1 0x05) (fun t => t.pc == 0x202) = true := by decide
theorem test_sneImm_B2_4 : stepOk 0x4105 (fun s => s.setReg 1 0x06) (fun t => t.pc == 0x204) = true := by decide
theorem test_seReg_B1_13 :
    stepOk 0x5125 (fun s => (s.setReg 1 7).setReg 2 7) (fun t => t.pc == 0x204) = true := by decide
theorem test_seReg_B2_6 :
    stepOk 0x5120 (fun s => (s.setReg 1 7).setReg 2 8) (fun t => t.pc == 0x202) = true := by decide
theorem test_sneReg_B2_7 :
    stepOk 0x9127 (fun s => (s.setReg 1 7).setReg 2 8) (fun t => t.pc == 0x204) = true := by decide
theorem test_sneReg_B2_8 :
    stepOk 0x9120 (fun s => (s.setReg 1 7).setReg 2 7) (fun t => t.pc == 0x202) = true := by decide
theorem test_skp_B1_14 :
    stepOk 0xE10E (fun s => press 4 (s.setReg 1 4)) (fun t => t.pc == 0x204) = true := by decide
theorem test_skp_B2_13 : stepOk 0xE19E (fun s => s.setReg 1 0x10) (fun t =>
    t.status == ⟨.fault, .keyIndex, 0x0200, 0xE19E⟩ && t.pc == 0x200) = true := by decide
theorem test_sknp_B2_12 :
    stepOk 0xE1A1 (fun s => press 4 (s.setReg 1 4)) (fun t => t.pc == 0x202) = true := by decide
theorem test_sknp_B2_14 : stepOk 0xE1A1 (fun s => s.setReg 1 0xFF) (fun t =>
    t.status == ⟨.fault, .keyIndex, 0x0200, 0xE1A1⟩ && t.pc == 0x200) = true := by decide

/-! ## Jumps, call and return (B3) -/

theorem test_jp_B3_1 : stepOk 0x1ABC id (fun t => t.pc == 0xABC) = true := by decide
theorem test_jpV0_B3_4 : stepOk 0xBFFF (fun s => s.setReg 0 0xFF) (fun t => t.pc == 0x10FE) = true := by decide
theorem test_call_B3_8 : stepOk 0x2400 (stackAt 15 0 0) (fun t =>
    t.stack[15] == 0x202 && t.sp == 16 && t.pc == 0x400) = true := by decide
theorem test_call_B3_6 : stepOk 0x2400 (stackAt 16 0 0x345) (fun t =>
    t.status == ⟨.fault, .stackOverflow, 0x0200, 0x2400⟩ && t.sp == 16 && t.pc == 0x200) = true := by decide
theorem test_ret_B3_11 : stepOk 0x00EE (stackAt 16 15 0x0ABE) (fun t =>
    t.pc == 0xABE && t.sp == 15 && t.stack[15] == 0x0ABE) = true := by decide
/-- B3.10, with the ignored bits of 0x01EE in fault_word. -/
theorem test_ret_B3_10 : stepOk 0x01EE id (fun t =>
    t.status == ⟨.fault, .stackUnderflow, 0x0200, 0x01EE⟩ && t.pc == 0x200) = true := by decide

/-! ## ALU (B4) -/

theorem test_ldImm_B4_6 : stepOk 0x6F00 (fun s => s.setReg 15 1) (fun t => t.reg 15 == 0) = true := by decide
theorem test_addImm_B4_1 :
    stepOk 0x71FF (fun s => s.setReg 1 1) (fun t => t.reg 1 == 0 && t.reg 15 == 1) = true := by decide
/-- x = F: the flag wins. -/
theorem test_addImm_B4_1_flag : stepOk 0x7F80 (fun s => s.setReg 15 0x80) (fun t => t.reg 15 == 1) = true := by decide
theorem test_ldReg_B4_6 :
    stepOk 0x8F10 (fun s => s.setReg 1 0x77) (fun t => t.reg 15 == 0x77) = true := by decide
theorem test_or_B4_6 : stepOk 0x8121 (fun s => ((s.setReg 1 0xA0).setReg 2 0x0A).setReg 15 0x55) (fun t =>
    t.reg 1 == 0xAA && t.reg 15 == 0x55) = true := by decide
theorem test_and_B4_6 : stepOk 0x8122 (fun s => ((s.setReg 1 0xF0).setReg 2 0x3C).setReg 15 0x55) (fun t =>
    t.reg 1 == 0x30 && t.reg 15 == 0x55) = true := by decide
theorem test_xor_B4_6 : stepOk 0x8123 (fun s => ((s.setReg 1 0xFF).setReg 2 0x0F).setReg 15 0x55) (fun t =>
    t.reg 1 == 0xF0 && t.reg 15 == 0x55) = true := by decide
theorem test_addReg_B4_2 : stepOk 0x8124 (fun s => (s.setReg 1 0x80).setReg 2 0x80) (fun t =>
    t.reg 1 == 0 && t.reg 15 == 1) = true := by decide
/-- y = F reads the old VF. -/
theorem test_addReg_B4_2_flag : stepOk 0x81F4 (fun s => (s.setReg 1 0xFF).setReg 15 1) (fun t =>
    t.reg 1 == 0 && t.reg 15 == 1) = true := by decide
theorem test_sub_B4_3 : stepOk 0x8125 (fun s => s.setReg 2 1) (fun t =>
    t.reg 1 == 0xFF && t.reg 15 == 0) = true := by decide
/-- Equal operands: strict, so VF = 0. -/
theorem test_sub_B4_3_equal : stepOk 0x8125 (fun s => ((s.setReg 1 0x10).setReg 2 0x10).setReg 15 1) (fun t =>
    t.reg 1 == 0 && t.reg 15 == 0) = true := by decide
theorem test_subn_B4_4 : stepOk 0x8127 (fun s => (s.setReg 1 3).setReg 2 0x0A) (fun t =>
    t.reg 1 == 7 && t.reg 15 == 1) = true := by decide
theorem test_subn_B4_4_flag : stepOk 0x81F7 (fun s => (s.setReg 1 1).setReg 15 5) (fun t =>
    t.reg 1 == 4 && t.reg 15 == 1) = true := by decide
theorem test_shr_B4_5 : stepOk 0x8156 (fun s => (s.setReg 1 5).setReg 5 0xFF) (fun t =>
    t.reg 1 == 2 && t.reg 15 == 1 && t.reg 5 == 0xFF) = true := by decide
theorem test_shr_B4_5_flag : stepOk 0x8F06 (fun s => s.setReg 15 3) (fun t => t.reg 15 == 1) = true := by decide
theorem test_shl_B4_5 : stepOk 0x810E (fun s => s.setReg 1 0x81) (fun t =>
    t.reg 1 == 2 && t.reg 15 == 1) = true := by decide
theorem test_shl_B4_5_flag : stepOk 0x8F0E (fun s => s.setReg 15 0x40) (fun t => t.reg 15 == 0) = true := by decide

/-! ## Random (B5) -/

theorem test_rnd_B5 : stepOk 0xC1F0 (fun s => s.supplyRand 0xAB) (fun t =>
    t.reg 1 == 0xA0 && t.randIn == []) = true := by decide
theorem test_rnd_B5_flag : stepOk 0xCFFF (fun s => (s.setReg 15 1).supplyRand 0x3C) (fun t =>
    t.reg 15 == 0x3C) = true := by decide

/-! ## Display (B6) -/

theorem test_cls_B6_1 : stepOk 0x00E0 (fun s => (light 31 63 (light 0 0 s)).setReg 15 9) (fun t =>
    !t.fb[0][0] && !t.fb[31][63] && t.reg 15 == 9) = true := by decide
/-- B6.5: glyph 0 of the default FONT, rows past 31 clipped. -/
theorem test_drw_B6_5 : stepOk 0xD125 (fun s => (s.setReg 2 30).setIndex 0x50) (fun t =>
    t.fb[30][0] && t.fb[30][3] && t.fb[31][0] && !t.fb[31][1] && t.fb[31][3] && !t.fb[0][0] && t.reg 15 == 0) = true := by
  decide
/-- B6.6: a collision. -/
theorem test_drw_B6_6 : stepOk 0xD121 (fun s => poke 0x300 0x80 ((light 0 0 s).setIndex 0x300)) (fun t =>
    !t.fb[0][0] && t.reg 15 == 1) = true := by decide
/-- B6.9: a sprite past 0xFFF. -/
theorem test_drw_B6_9 : stepOk 0xD123 (fun s => (light 3 3 s).setIndex 0xFFE) (fun t =>
    t.status == ⟨.fault, .readOob, 0x0200, 0xD123⟩ && t.fb[3][3]) = true := by decide

/-! ## Memory block (B7) -/

theorem test_ldMemVx_B7_3 : stepOk 0xF155 (fun s => (s.setReg 0 0xAA).setIndex 0xFFF) (fun t =>
    t.mem.read 0xFFF == 0xAA && t.index == 0xFFF && decide t.mem.wf) = true := by decide
theorem test_ldMemVx_B7_4 : stepOk 0xF255 (fun s => (s.setReg 0 0xAA).setIndex 0xFFF) (fun t =>
    t.status == ⟨.fault, .writeOob, 0x0200, 0xF255⟩ && t.mem.read 0xFFF == 0) = true := by decide
/-- R221's example: V2 is not loaded. -/
theorem test_ldVxMem_R221 : stepOk 0xF265
    (fun s => poke 0x302 0x33 (poke 0x301 0x22 (poke 0x300 0x11 (s.setIndex 0x300)))) (fun t =>
    t.reg 0 == 0x11 && t.reg 1 == 0x22 && t.reg 2 == 0) = true := by decide
theorem test_ldVxMem_B7_2 : stepOk 0xF065 (fun s => s.setIndex 0x5000) (fun t =>
    t.status == Status.clear && t.pc == 0x202) = true := by decide
theorem test_ldB_B7_10 : stepOk 0xF133 (fun s => (s.setReg 1 0xFF).setIndex 0xFFD) (fun t =>
    t.mem.read 0xFFD == 2 && t.mem.read 0xFFE == 5 && t.mem.read 0xFFF == 5) = true := by decide
theorem test_ldB_B7_11 : stepOk 0xF133 (fun s => (s.setReg 1 0xFF).setIndex 0xFFE) (fun t =>
    t.status == ⟨.fault, .writeOob, 0x0200, 0xF133⟩ && t.mem.read 0xFFE == 0) = true := by decide

/-! ## Timers, key wait, index (B8, B9) -/

theorem test_ldVxDt_B8_1 : stepOk 0xF107 (fun s => s.setDt 9) (fun t => t.reg 1 == 9) = true := by decide
theorem test_ldDtVx_B8_7 :
    stepOk 0xFF15 (fun s => s.setReg 15 1) (fun t => t.dt == 1 && t.reg 15 == 1) = true := by decide
theorem test_ldStVx_B8_3 : stepOk 0xF118 (fun s => s.setReg 1 0x3C) (fun t => t.st == 0x3C) = true := by decide
theorem test_tick_B8_4 : (State.reset.setDt 1 |>.setSt 5).tick.dt = 0 ∧ (State.reset.setDt 1 |>.setSt 5).tick.st = 4 ∧
    State.reset.tick.dt = 0 := by decide
theorem test_ldVxK_B9_4 : stepOk 0xF10A (fun s => s.setReg 1 9) (fun t =>
    t.pc == 0x200 && t.reg 1 == 9) = true := by decide
theorem test_ldVxK_B9_5 :
    stepOk 0xF10A (fun s => press 9 (press 2 s)) (fun t => t.reg 1 == 2 && t.pc == 0x202) = true := by decide
theorem test_ldI_B9_1 : stepOk 0xA123 id (fun t => t.index == 0x0123) = true := by decide
theorem test_addI_B9_3 : stepOk 0xF11E (fun s => ((s.setReg 1 1).setReg 15 0x55).setIndex 0xFFFF) (fun t =>
    t.index == 0 && t.reg 15 == 0x55) = true := by decide
theorem test_ldF_B9_10 : stepOk 0xF129 (fun s => s.setReg 1 0xFF) (fun t => t.index == 0x054B) = true := by decide
theorem test_nop_B1_10 : stepOk 0x800D (fun s => s.setReg 1 3) (fun t =>
    t.pc == 0x202 && t.reg 1 == 3 && t.reg 15 == 0) = true := by decide

/-! ## Memory (spec/20_memory.md R56, R57) -/

/-- Reset memory: the font's first and last bytes, and zero beside it. -/
theorem test_reset_memory : State.reset.mem.read 0x50 = 0xF0 ∧ State.reset.mem.read 0x9F = 0x80 ∧
    State.reset.mem.read 0x4F = 0 ∧ State.reset.mem.read 0xA0 = 0 ∧ State.reset.mem.read 0xFFF = 0 := by decide

/-- Writing what an unlisted address reads as removes the entry. -/
theorem test_memory_canonical :
    (((State.reset.mem.write 0x300 7).write 0x50 1).write 0x50 0xF0).cells = [(0x300, 7)] := by decide

/-- E10's lengths are those of `Config.maxImage`; a short image is placed at 0x200. -/
theorem test_init_places_image : (match State.init defaultFont [0x6A, 0x12] with
    | .ok s => s.mem.cells == [(0x200, 0x6A), (0x201, 0x12)] && s.pc == 0x200
    | .error _ => false) = true := by decide

/-! ## Witnesses of the obligations' hypotheses -/

theorem test_hyp_DecodeOfEncodeIsIdentity :
    (Instr.nop 0x8008).WellFormed ∧ (Instr.drw 15 0 15).WellFormed := by decide

theorem test_hyp_StepRunsDecodedInstruction :
    let s := (State.reset.setPc 0xFFE).withFetchWord 16 0xF265
    (Instr.ldVxMem 2).WellFormed ∧ s.status.state = .run ∧ s.pc.toNat + 1 ≤ 0xFFF ∧
    (encode (.ldVxMem 2)).toNat = 256 * (s.mem.read s.pc.toNat).toNat + (s.mem.read (s.pc.toNat + 1)).toNat := by decide

theorem test_hyp_FetchPastMemoryFaults :
    (State.reset.setPc 0xFFF).status.state = .run ∧ (State.reset.setPc 0xFFF).pc.toNat + 1 > 0xFFF := by decide

theorem test_hyp_FaultedCoreStaysPut : (State.reset.raise .keyIndex 0xE19E).status.state = .fault := by decide

/-- A state and an instruction for each cause of T-R302 but FETCH_OOB, at the least value that faults. -/
theorem test_hyp_TabledConditionsFault :
    faultCondition (.drw 0 0 1) (State.reset.setIndex 0x1000) = some .readOob ∧
    faultCondition (.ldVxMem 2) (State.reset.setIndex 0xFFF) = some .readOob ∧
    faultCondition (.ldMemVx 2) (State.reset.setIndex 0xFFF) = some .writeOob ∧
    faultCondition (.ldB 0) (State.reset.setIndex 0xFFE) = some .writeOob ∧
    faultCondition (.call 0) (stackAt 16 0 0 State.reset) = some .stackOverflow ∧
    faultCondition (.ret 0) State.reset = some .stackUnderflow ∧
    faultCondition (.skp 1 0) (State.reset.setReg 1 16) = some .keyIndex ∧
    faultCondition (.sknp 1 0) (State.reset.setReg 1 16) = some .keyIndex := by decide

/-- The greatest values that do not fault; also for StateWrittenOnlyAsTabled's last clause and PcAfterStepIsAsTabled. -/
theorem test_hyp_NothingElseFaults :
    (stackAt 15 0 0 State.reset).sp.toNat ≤ 16 ∧ faultCondition (.call 0) (stackAt 15 0 0 State.reset) = none ∧
    (stackAt 16 0 0 State.reset).sp.toNat ≤ 16 ∧ faultCondition (.ret 0) (stackAt 16 0 0 State.reset) = none ∧
    faultCondition (.drw 0 0 1) (State.reset.setIndex 0xFFF) = none ∧
    faultCondition (.ldMemVx 0) (State.reset.setIndex 0xFFFF) = none ∧
    faultCondition (.skp 1 0) (State.reset.setReg 1 15) = none := by decide

theorem test_hyp_StepKeepsInvariant : ∃ t, State.reset.Inv ∧ step State.reset = .next t := ⟨_, by decide, rfl⟩

theorem test_hyp_EveryMoveKeepsInvariant : State.reset.Inv ∧
    (∃ t r, applyMove (.init [0x12, 0x00]) State.reset = .done t r) ∧
    (∃ t r, applyMove .step State.reset = .done t r) ∧
    (∃ t r, applyMove .tick State.reset = .done t r) := by
  exact ⟨by decide, ⟨_, _, rfl⟩, ⟨_, _, rfl⟩, ⟨_, _, rfl⟩⟩

theorem test_hyp_StepAlwaysAnswersNext : (State.reset.raise .keyIndex 0xE19E).Inv := by decide

theorem test_hyp_StateWrittenOnlyAsTabled : ∃ t, exec (.ldMemVx 2) State.reset = .next t ∧
    ¬ mayWriteReg (.ldMemVx 2) 0 ∧ mayWrite (.ldMemVx 2) .stack = false ∧
    faultCondition (.ldMemVx 2) State.reset = none := by
  refine ⟨_, rfl, ?_, by decide, by decide⟩
  rintro (h | ⟨h, -⟩ | ⟨x, h, -⟩) <;> cases h

theorem test_hyp_PcAfterStepIsAsTabled : (State.reset.setPc 0xFFE).sp.toNat ≤ 16 ∧
    (State.reset.setPc 0xFFE).pc.toNat + 1 ≤ 0xFFF ∧
    faultCondition (.seImm 0 0) (State.reset.setPc 0xFFE) = none ∧
    nextPc (.seImm 0 0) (State.reset.setPc 0xFFE) = 0x1002 := by decide

theorem test_hyp_KeySkipsMovePc :
    ((State.reset.setReg 1 15).reg 1).toNat = (15 : Fin 16).val ∧ ((State.reset.setReg 1 0).reg 1).toNat = (0 : Fin 16).val := by
  decide

theorem test_hyp_KeySkipsFaultPastKeypad : ((State.reset.setReg 1 16).reg 1).toNat > 15 := by decide

theorem test_hyp_JumpSetsPc : (0xFFF : Addr12).toNat = 0xFFF ∧ State.reset.status.state = .run := by decide

theorem test_hyp_CallPushesReturnAddress :
    (stackAt 15 0 0 State.reset).sp.toNat < 16 ∧ (stackAt 16 0 0 State.reset).sp.toNat = 16 := by decide

theorem test_hyp_ReturnPopsStack :
    (stackAt 16 15 0x0ABE State.reset).sp.toNat = (15 : Fin 16).val + 1 ∧
    (stackAt 1 0 0x345 State.reset).sp.toNat = (0 : Fin 16).val + 1 ∧ State.reset.sp.toNat = 0 := by decide

theorem test_hyp_CallsAndReturnsBalance :
    let targets := List.replicate 16 (0x400 : Addr12)
    targets ≠ [] ∧ State.reset.sp.toNat + targets.length ≤ 16 := by decide

theorem test_hyp_AluClauses : (1 : Reg) ≠ Reg.flag ∧ (0 : Reg) ≠ Reg.flag := by decide

theorem test_hyp_RandomDrawsOneByte :
    (∃ t, exec (.rnd 1 0x0F) (State.reset.supplyRand 0xA7) = .next t ∧
      (State.reset.supplyRand 0xA7).randIn = 0xA7 :: []) ∧
    (∃ t, exec (.rnd 1 0x0F) State.reset = .next t ∧ State.reset.randIn = []) :=
  ⟨⟨_, rfl, rfl⟩, ⟨_, rfl, rfl⟩⟩

theorem test_hyp_DrawTogglesSpritePixels :
    (State.reset.setIndex 0xFF1).index.toNat + (15 : Fin 16).val ≤ 4096 ∧ (0 : Fin 16).val = 0 := by decide

theorem test_hyp_DrawFlagIsCollision : ∃ t, (State.reset.setIndex 0x50).index.toNat + (5 : Fin 16).val ≤ 4096 ∧
    exec (.drw 0 0 5) (light 0 0 (State.reset.setIndex 0x50)) = .next t ∧
    (light 0 0 (State.reset.setIndex 0x50)).fb[(0 : Fin 32)][(0 : Fin 64)] = true ∧
    t.fb[(0 : Fin 32)][(0 : Fin 64)] = false :=
  ⟨_, by decide, rfl, by decide, by decide⟩

theorem test_hyp_DrawPastMemoryFaults :
    (1 : Fin 16).val > 0 ∧ (State.reset.setIndex 0x1000).index.toNat + (1 : Fin 16).val - 1 > 0xFFF := by decide

theorem test_hyp_DrawTwiceRestoresScreen : (0 : Reg) ≠ Reg.flag ∧ (1 : Reg) ≠ Reg.flag ∧
    (State.reset.setIndex 0x50).index.toNat + (5 : Fin 16).val ≤ 4096 := by decide

/-- The first draw sets a cell, so the second sets VF to 1. -/
theorem test_hyp_DrawTwiceRestoresScreen_set :
    let s := State.reset.setIndex 0x50
    ∃ t, exec (.drw 0 1 5) s = .next t ∧ s.fb[(0 : Fin 32)][(0 : Fin 64)] = false ∧
      t.fb[(0 : Fin 32)][(0 : Fin 64)] = true :=
  ⟨_, rfl, by decide, by decide⟩

/-- The first draw only clears a cell, so the second sets VF to 0. -/
theorem test_hyp_DrawTwiceRestoresScreen_clear :
    let s := poke 0x300 0x80 (light 0 0 (State.reset.setIndex 0x300))
    ∃ t, exec (.drw 0 1 1) s = .next t ∧
      ¬ ∃ (r : Fin 32) (c : Fin 64), s.fb[r][c] = false ∧ t.fb[r][c] = true := by
  refine ⟨_, rfl, ?_⟩
  rintro ⟨r, c, h1, h2⟩
  have hne := (drawSprite_ne_iff _ _ _ _ r c).1 (fun e => absurd (h2.symm.trans (e.trans h1)) (by decide))
  obtain ⟨byte, hrow, -, hlt, hpix⟩ := hne
  obtain ⟨k, hr, hk⟩ := (spriteRowAt_eq_some_iff _ _ _ _).1 hrow
  have hc : c.val < 8 := hlt
  have hr0 : k = 0 := by
    have := (List.getElem?_eq_some_iff.1 hk).1
    simpa [State.sprite] using this
  subst hr0
  have hb : byte = 0x80 := (Option.some.inj hk).symm
  subst hb
  have hr' : r = 0 := Fin.ext hr
  subst hr'
  have left : ∀ d : Fin 64, d.val < 8 → spritePixel 0x80 d.val = true → d = 0 := by decide
  have hc' : c = 0 := left c hc hpix
  subst hc'
  exact absurd h1 (by decide)

theorem test_hyp_DrawRefinesPixelLoop :
    (State.reset.setIndex 0xFFF).index.toNat + (1 : Fin 16).val ≤ 4096 ∧ (0 : Fin 16).val = 0 := by decide

theorem test_hyp_StoreBlockWritesRegisters :
    (State.reset.setIndex 0xFF1).base + (15 : Reg).val ≤ 4096 ∧ (0 : Reg).val = 0 := by decide

theorem test_hyp_LoadBlockReadsMemory :
    (State.reset.setIndex 0xFF1).base + (15 : Reg).val ≤ 4096 ∧ (14 : Reg).val < (15 : Reg).val ∧
    (15 : Reg).val ≤ (15 : Reg).val := by decide

theorem test_hyp_DecimalStoreWritesDigits : (State.reset.setIndex 0xFFD).base + 3 ≤ 4096 := by decide

theorem test_hyp_BlockAccessPastMemoryFaults :
    (2 : Reg).val > 0 ∧ (State.reset.setIndex 0xFFF).index.toNat + (2 : Reg).val - 1 > 0xFFF ∧
    (State.reset.setIndex 0xFFE).index.toNat + 2 > 0xFFF := by decide

theorem test_hyp_StoreThenLoadReturnsRegisters : ∃ t, ∃ s2 : State,
    State.reset.base + (15 : Reg).val ≤ 4096 ∧ exec (.ldMemVx 15) State.reset = .next t ∧ s2.mem = t.mem ∧
    s2.index = State.reset.index :=
  ⟨_, { State.reset with mem := State.reset.mem.writeBytes State.reset.base (State.reset.regsBelow 15) },
    by decide, rfl, rfl, rfl⟩

theorem test_hyp_StoredWordIsFetchedNext : 2 ≤ (2 : Reg).val ∧
    (State.reset.setIndex 0x202).base + (2 : Reg).val ≤ 4096 ∧
    (State.reset.setIndex 0x202).base = (State.reset.setIndex 0x202).pc.toNat + 2 := by decide

theorem test_hyp_KeyWaitLoadsLowestKey :
    (press 9 (press 2 State.reset)).key[(2 : Fin 16)] = true ∧
    ∀ j : Fin 16, j < 2 → (press 9 (press 2 State.reset)).key[j] = false := by decide

theorem test_hyp_KeyWaitPolls :
    let s := State.reset.withFetchWord 16 0xF30A
    s.status.state = .run ∧ s.fetch = some (encode (.ldVxK 3)) ∧ ∀ k : Fin 16, s.key[k] = false := by decide

theorem test_hyp_UnmappedWordIsNoOp :
    let s := State.reset.withFetchWord 16 0x8008
    unmappedWord 0x8008 = true ∧ s.status.state = .run ∧ s.fetch = some 0x8008 := by decide

theorem test_hyp_InitChecksCapacity :
    (List.replicate 3584 (0 : Byte)).length ≤ 4096 - 512 ∧ (List.replicate 3585 (0 : Byte)).length > 4096 - 512 := by
  rw [List.length_replicate, List.length_replicate]; decide

theorem test_hyp_InitLeavesResetValues : ∃ s, State.init defaultFont [0x12, 0x00] = .ok s ∧ 0 < [0x12, 0x00].length :=
  ⟨_, rfl, by decide⟩

theorem test_hyp_InitLoadsImageAndFont : (∃ s, State.init defaultFont [0x12, 0x00] = .ok s) ∧
    (0x4F < 0x50 ∧ 0x4F < 0x200) ∧ (0xA0 ≤ 0xA0 ∧ 0xA0 < 0x200) ∧ (0xA0 ≤ 0x202 ∧ 0x200 + 2 ≤ 0x202) :=
  ⟨⟨_, rfl⟩, by decide⟩

theorem test_hyp_FaultIsLeftOnlyByInit :
    (State.reset.raise .keyIndex 0xE19E).status.state = .fault ∧ (∀ image, Move.tick ≠ .init image) ∧
    (∃ t r, applyMove .tick (State.reset.raise .keyIndex 0xE19E) = .done t r) ∧
    [(0x12 : Byte), 0x00].length ≤ 4096 - 512 :=
  ⟨rfl, fun _ h => (by cases h), ⟨_, _, rfl⟩, by decide⟩

theorem test_hyp_SelfJumpStaysPut : (State.reset.withFetchWord 16 0x1200).AtSelfJump := ⟨rfl, 0x1200, by decide⟩

theorem test_hyp_KeypadReachesOnlyKeyInstructions :
    (∀ x ign, Instr.jp 0 ≠ .skp x ign) ∧ (∀ x ign, Instr.jp 0 ≠ .sknp x ign) ∧ (∀ x, Instr.jp 0 ≠ .ldVxK x) :=
  ⟨fun _ _ h => (by cases h), fun _ _ h => (by cases h), fun _ h => (by cases h)⟩

theorem test_hyp_RandomSourceReachesOnlyRnd : ∀ x kk, Instr.ldVxMem 2 ≠ .rnd x kk := fun _ _ h => (by cases h)

end Sys2Proof.Tests
end

section
/-! SUPPORT. Frames of the state operations, the instructions on their faulting and completing branches, and the
obligations on the state's pieces (spec/10_state.md): what each instruction may write, the pc it leaves, the values
after init. -/

namespace Sys2Proof.Machine

/-! ## Frames: what each operation leaves unchanged -/

theorem Part.same_trans {p : Part} {s t u : State} (h₁ : p.same s t) (h₂ : p.same t u) : p.same s u := by
  cases p <;> simp_all [Part.same]

theorem unchangedBut_setReg (s : State) (r : Reg) (b : Byte) : UnchangedBut [.regs] s (s.setReg r b) := by
  intro p hp; cases p <;> simp_all [Part.same]

theorem unchangedBut_setRegsBelow (s : State) (n : Nat) (f : Nat → Byte) :
    UnchangedBut [.regs] s (s.setRegsBelow n f) := by
  intro p hp; cases p <;> simp_all [Part.same]

theorem unchangedBut_setFlag (s : State) (f : Option Bool) : UnchangedBut [.regs] s (s.setFlag f) := by
  intro p hp; cases p <;> simp_all [Part.same]

theorem unchangedBut_setPc (s : State) (a : Word) : UnchangedBut [.pc] s (s.setPc a) := by
  intro p hp; cases p <;> simp_all [Part.same]

theorem unchangedBut_advance (s : State) : UnchangedBut [.pc] s s.advance := unchangedBut_setPc s _

theorem unchangedBut_skipIf (s : State) (c : Bool) : UnchangedBut [.pc] s (s.skipIf c) := by
  intro p hp; cases p <;> simp_all [Part.same]

theorem unchangedBut_setIndex (s : State) (a : Word) : UnchangedBut [.index] s (s.setIndex a) := by
  intro p hp; cases p <;> simp_all [Part.same]

theorem unchangedBut_setDt (s : State) (b : Byte) : UnchangedBut [.dt] s (s.setDt b) := by
  intro p hp; cases p <;> simp_all [Part.same]

theorem unchangedBut_setSt (s : State) (b : Byte) : UnchangedBut [.st] s (s.setSt b) := by
  intro p hp; cases p <;> simp_all [Part.same]

theorem unchangedBut_setFb (s : State) (fb : Vector (Vector Bool 64) 32) : UnchangedBut [.screen] s (s.setFb fb) := by
  intro p hp; cases p <;> simp_all [Part.same]

theorem unchangedBut_setMem_writeBytes (s : State) (a : Nat) (bs : List Byte) :
    UnchangedBut [.memory] s (s.setMem (s.mem.writeBytes a bs)) := by
  intro p hp; cases p <;> simp_all [Part.same]

theorem unchangedBut_push (s : State) (a : Word) (h : s.sp.toNat < 16) : UnchangedBut [.stack] s (s.push a h) := by
  intro p hp; cases p <;> simp_all [Part.same]

theorem unchangedBut_popPc (s : State) (h : (s.sp - 1).toNat < 16) : UnchangedBut [.stack, .pc] s (s.popPc h) := by
  intro p hp; cases p <;> simp_all [Part.same]

theorem unchangedBut_drawn (s : State) : UnchangedBut [.random] s s.drawn := by
  intro p hp; cases p <;> simp_all [Part.same]

theorem unchangedBut_raise (s : State) (c : Cause) (w : Word) : UnchangedBut [.status] s (s.raise c w) := by
  intro p hp; cases p <;> simp_all [Part.same]

/-! ## The rows of table T-R302 that have a condition -/

@[simp] theorem faultCondition_drw (x y : Reg) (n : Fin 16) (s : State) :
    faultCondition (.drw x y n) s = if s.outOfRange n.val then some .readOob else none := rfl

@[simp] theorem faultCondition_ldVxMem (x : Reg) (s : State) :
    faultCondition (.ldVxMem x) s = if s.outOfRange x.val then some .readOob else none := rfl

@[simp] theorem faultCondition_ldMemVx (x : Reg) (s : State) :
    faultCondition (.ldMemVx x) s = if s.outOfRange x.val then some .writeOob else none := rfl

@[simp] theorem faultCondition_ldB (x : Reg) (s : State) :
    faultCondition (.ldB x) s = if s.outOfRange 3 then some .writeOob else none := by
  simp [faultCondition, State.outOfRange, State.base]

@[simp] theorem faultCondition_call (nnn : Addr12) (s : State) :
    faultCondition (.call nnn) s = if s.sp.toNat = 16 then some .stackOverflow else none := rfl

@[simp] theorem faultCondition_ret (ign : Byte) (s : State) :
    faultCondition (.ret ign) s = if s.sp.toNat = 0 then some .stackUnderflow else none := rfl

@[simp] theorem faultCondition_skp (x : Reg) (ign : BitVec 4) (s : State) :
    faultCondition (.skp x ign) s = if (s.reg x).toNat > 15 then some .keyIndex else none := rfl

@[simp] theorem faultCondition_sknp (x : Reg) (ign : BitVec 4) (s : State) :
    faultCondition (.sknp x ign) s = if (s.reg x).toNat > 15 then some .keyIndex else none := rfl

/-! ## The faulting branches -/

theorem execDrw_outOfRange {x y : Reg} {n : Fin 16} {s : State} (h : s.outOfRange n.val) :
    execDrw x y n s = .next (s.raise .readOob (encode (.drw x y n))) := if_pos h

theorem execLdVxMem_outOfRange {x : Reg} {s : State} (h : s.outOfRange x.val) :
    execLdVxMem x s = .next (s.raise .readOob (encode (.ldVxMem x))) := if_pos h

theorem execLdMemVx_outOfRange {x : Reg} {s : State} (h : s.outOfRange x.val) :
    execLdMemVx x s = .next (s.raise .writeOob (encode (.ldMemVx x))) := if_pos h

theorem execLdB_outOfRange {x : Reg} {s : State} (h : s.outOfRange 3) :
    execLdB x s = .next (s.raise .writeOob (encode (.ldB x))) := if_pos h

theorem execCall_spOutOfRange {nnn : Addr12} {s : State} (h : 16 < s.sp.toNat) :
    execCall nnn s = .fault .stackPointerOutOfRange := by
  have h16 : ¬ s.sp = 16 := fun e => by rw [e] at h; exact absurd h (by decide)
  simp only [execCall, if_neg h16, dif_neg (show ¬ s.sp.toNat < 16 by omega)]

theorem execRet_spOutOfRange {ign : Byte} {s : State} (h : 16 < s.sp.toNat) :
    execRet ign s = .fault .stackPointerOutOfRange := by
  have h0 : ¬ s.sp = 0 := fun e => by rw [e] at h; exact absurd h (by decide)
  have hpop : ¬ (s.sp - 1).toNat < 16 := by rw [sp_sub_one_toNat (by omega)]; omega
  simp only [execRet, if_neg h0, dif_neg hpop]

/-- Where table T-R302 gives a cause, exec takes that fault and does nothing else (spec/60_exceptions.md R303). -/
theorem exec_eq_raise_of_faultCondition {i : Instr} {s : State} {c : Cause} (h : faultCondition i s = some c) :
    exec i s = .next (s.raise c (encode i)) := by
  cases i with
  | drw =>
    obtain ⟨hr, rfl⟩ : s.outOfRange _ ∧ _ = c := by simpa using h
    exact execDrw_outOfRange hr
  | ldVxMem =>
    obtain ⟨hr, rfl⟩ : s.outOfRange _ ∧ _ = c := by simpa using h
    exact execLdVxMem_outOfRange hr
  | ldMemVx =>
    obtain ⟨hr, rfl⟩ : s.outOfRange _ ∧ _ = c := by simpa using h
    exact execLdMemVx_outOfRange hr
  | ldB =>
    obtain ⟨hr, rfl⟩ : s.outOfRange 3 ∧ _ = c := by simpa using h
    exact execLdB_outOfRange hr
  | call =>
    obtain ⟨hsp, rfl⟩ : s.sp.toNat = 16 ∧ _ = c := by simpa using h
    exact execCall_full hsp
  | ret =>
    obtain ⟨hsp, rfl⟩ : s.sp.toNat = 0 ∧ _ = c := by simpa using h
    exact execRet_empty hsp
  | skp =>
    obtain ⟨hk, rfl⟩ : (s.reg _).toNat > 15 ∧ _ = c := by simpa using h
    exact execSkp_fault hk
  | sknp =>
    obtain ⟨hk, rfl⟩ : (s.reg _).toNat > 15 ∧ _ = c := by simpa using h
    exact execSknp_fault hk
  | _ => cases h

/-! ## What an instruction that completes may write -/

@[simp] theorem mayWrite_pc (i : Instr) : mayWrite i .pc = true := by simp [mayWrite]

@[simp] theorem mayWrite_status (i : Instr) : mayWrite i .status = false := by simp [mayWrite]

/-- `t` differs from `s` at most in the pieces the tables let `i` write; the status register is none of them. -/
structure TabledFrame (i : Instr) (s t : State) : Prop where
  regs : ∀ r, ¬ mayWriteReg i r → t.reg r = s.reg r
  parts : ∀ p, p ≠ .regs → mayWrite i p = false → p.same s t

namespace TabledFrame

variable {i : Instr} {s t : State}

/-- A frame all of whose pieces the tables let `i` write is a tabled one. -/
theorem of_unchangedBut {w : List Part} (hu : UnchangedBut w s t)
    (hw : ∀ p ∈ w, p = .regs ∨ mayWrite i p = true) (hr : ∀ r, ¬ mayWriteReg i r → t.reg r = s.reg r) :
    TabledFrame i s t where
  regs := hr
  parts p hp hf := hu p fun hmem => (hw p hmem).elim hp (by simp [hf])

/-- The frame of the state an answer is known to hold. -/
theorem of_answer {o : Result} {u : State} (hu : o = .next u) (h : o = .next t) (hfr : TabledFrame i s u) :
    TabledFrame i s t :=
  Host.Outcome.next.inj (hu.symm.trans h) ▸ hfr

theorem refl (i : Instr) (s : State) : TabledFrame i s s :=
  of_unchangedBut (w := []) (fun p _ => by cases p <;> simp [Part.same]) (by simp) fun _ _ => rfl

theorem advance (i : Instr) (s : State) : TabledFrame i s s.advance :=
  of_unchangedBut (unchangedBut_advance s) (by simp) fun _ _ => by simp

/-- One more operation, on pieces the tables let `i` write. -/
theorem andThen {w : List Part} {u : State} (h : TabledFrame i s t) (hu : UnchangedBut w t u)
    (hw : ∀ p ∈ w, p = .regs ∨ mayWrite i p = true) (hr : ∀ r, ¬ mayWriteReg i r → u.reg r = t.reg r) :
    TabledFrame i s u where
  regs r hm := (hr r hm).trans (h.regs r hm)
  parts p hp hf := Part.same_trans (h.parts p hp hf) ((of_unchangedBut hu hw hr).parts p hp hf)

theorem setPc (h : TabledFrame i s t) (a : Word) : TabledFrame i s (t.setPc a) :=
  h.andThen (unchangedBut_setPc t a) (by simp) fun _ _ => by simp

theorem skipIf (h : TabledFrame i s t) (c : Bool) : TabledFrame i s (t.skipIf c) :=
  h.andThen (unchangedBut_skipIf t c) (by simp) fun _ _ => by simp

theorem setReg (h : TabledFrame i s t) {x : Reg} (hx : resultReg i = some x) (b : Byte) :
    TabledFrame i s (t.setReg x b) :=
  h.andThen (unchangedBut_setReg t x b) (by simp) fun r hr => by
    have hne : r ≠ x := fun e => hr (.inl (e ▸ hx))
    simp [hne]

theorem setRegsBelow (h : TabledFrame i s t) {n : Nat} (hn : ∀ r : Reg, r.val < n → mayWriteReg i r)
    (f : Nat → Byte) : TabledFrame i s (t.setRegsBelow n f) :=
  h.andThen (unchangedBut_setRegsBelow t n f) (by simp) fun r hr => by
    have hge : ¬ r.val < n := fun hlt => hr (hn r hlt)
    simp [hge]

theorem setFlag (h : TabledFrame i s t) {f : Option Bool} (hf : f.isSome → writesFlag i = true) :
    TabledFrame i s (t.setFlag f) :=
  h.andThen (unchangedBut_setFlag t f) (by simp) fun r hr => by
    cases f with
    | none => rfl
    | some b =>
      have hne : r ≠ Reg.flag := fun e => hr (.inr (.inl ⟨hf rfl, e⟩))
      simp [hne]

/-- An ALU instruction writes its result register, VF where the operation has a flag, and pc. -/
theorem aluStep {op : AluOp} {x : Reg} {b : Byte} (hx : resultReg i = some x)
    (hf : (alu op (s.reg x) b).flag.isSome → writesFlag i = true) : TabledFrame i s (s.aluStep op x b) :=
  ((advance i s).setReg hx _).setFlag hf

theorem setIndex (h : TabledFrame i s t) (hw : mayWrite i .index = true) (a : Word) :
    TabledFrame i s (t.setIndex a) :=
  h.andThen (unchangedBut_setIndex t a) (by simp [hw]) fun _ _ => by simp

theorem setDt (h : TabledFrame i s t) (hw : mayWrite i .dt = true) (b : Byte) : TabledFrame i s (t.setDt b) :=
  h.andThen (unchangedBut_setDt t b) (by simp [hw]) fun _ _ => by simp

theorem setSt (h : TabledFrame i s t) (hw : mayWrite i .st = true) (b : Byte) : TabledFrame i s (t.setSt b) :=
  h.andThen (unchangedBut_setSt t b) (by simp [hw]) fun _ _ => by simp

theorem setFb (h : TabledFrame i s t) (hw : mayWrite i .screen = true) (fb : Vector (Vector Bool 64) 32) :
    TabledFrame i s (t.setFb fb) :=
  h.andThen (unchangedBut_setFb t fb) (by simp [hw]) fun _ _ => by simp

theorem drawn (h : TabledFrame i s t) (hw : mayWrite i .random = true) : TabledFrame i s t.drawn :=
  h.andThen (unchangedBut_drawn t) (by simp [hw]) fun _ _ => by simp

theorem push (hsp : s.sp.toNat < 16) (hw : mayWrite i .stack = true) (a : Word) : TabledFrame i s (s.push a hsp) :=
  of_unchangedBut (unchangedBut_push s a hsp) (by simp [hw]) fun _ _ => by simp

theorem popPc (hsp : (s.sp - 1).toNat < 16) (hw : mayWrite i .stack = true) : TabledFrame i s (s.popPc hsp) :=
  of_unchangedBut (unchangedBut_popPc s hsp) (by simp [hw]) fun _ _ => by simp

theorem storeBytes (hw : mayWrite i .memory = true) (a : Nat) (bs : List Byte) :
    TabledFrame i s (s.advance.setMem (s.mem.writeBytes a bs)) :=
  (advance i s).andThen (unchangedBut_setMem_writeBytes s.advance a bs) (by simp [hw]) fun _ _ => by simp

end TabledFrame

/-- CALL that completes pushed: sp was below 16. -/
theorem sp_lt_of_execCall {nnn : Addr12} {s t : State} (hsp : s.sp.toNat ≠ 16) (h : execCall nnn s = .next t) :
    s.sp.toNat < 16 := by
  by_contra hge
  rw [execCall_spOutOfRange (by omega)] at h
  cases h

/-- RET that completes popped: sp was at most 16. -/
theorem sp_le_of_execRet {ign : Byte} {s t : State} (h : execRet ign s = .next t) : s.sp.toNat ≤ 16 := by
  by_contra hgt
  rw [execRet_spOutOfRange (by omega)] at h
  cases h

theorem popIndex_lt {s : State} (h0 : s.sp.toNat ≠ 0) (h16 : s.sp.toNat ≤ 16) : (s.sp - 1).toNat < 16 := by
  rw [sp_sub_one_toNat h0]; omega

/-- An instruction that completes writes nothing the tables do not let it write. -/
theorem tabledFrame_of_exec {i : Instr} {s t : State} (hf : faultCondition i s = none) (h : exec i s = .next t) :
    TabledFrame i s t := by
  have base := TabledFrame.advance i s
  cases i with
  | cls => exact .of_answer rfl h (base.setFb rfl _)
  | ldImm | ldReg | or | and | xor => exact .of_answer rfl h (.aluStep rfl (by simp [alu]))
  | addImm | addReg | sub | shr | subn | shl => exact .of_answer rfl h (.aluStep rfl fun _ => rfl)
  | seImm | sneImm | seReg | sneReg => exact .of_answer rfl h (base.skipIf _)
  | jp | jpV0 => exact .of_answer rfl h (base.setPc _)
  | ldI | addI | ldF => exact .of_answer rfl h (base.setIndex rfl _)
  | ldDtVx => exact .of_answer rfl h (base.setDt rfl _)
  | ldStVx => exact .of_answer rfl h (base.setSt rfl _)
  | ldVxDt => exact .of_answer rfl h (base.setReg rfl _)
  | nop => exact .of_answer rfl h base
  | rnd => exact .of_answer rfl h ((base.drawn rfl).setReg rfl _)
  | skp x =>
    have hk : (s.reg x).toNat < 16 := by simpa [Nat.lt_succ_iff] using hf
    exact .of_answer (execSkp_key (k := ⟨_, hk⟩) rfl) h (base.skipIf _)
  | sknp x =>
    have hk : (s.reg x).toNat < 16 := by simpa [Nat.lt_succ_iff] using hf
    exact .of_answer (execSknp_key (k := ⟨_, hk⟩) rfl) h (base.skipIf _)
  | drw _ _ n =>
    have hr : ¬ s.outOfRange n.val := by simpa using hf
    exact .of_answer (execDrw_inRange hr) h ((base.setFb rfl _).setFlag fun _ => rfl)
  | ldMemVx x =>
    have hr : ¬ s.outOfRange x.val := by simpa using hf
    exact .of_answer (execLdMemVx_inRange hr) h (.storeBytes rfl _ _)
  | ldB =>
    have hr : ¬ s.outOfRange 3 := by simpa using hf
    exact .of_answer (execLdB_inRange hr) h (.storeBytes rfl _ _)
  | ldVxMem x =>
    have hr : ¬ s.outOfRange x.val := by simpa using hf
    exact .of_answer (execLdVxMem_inRange hr) h (base.setRegsBelow (fun _ hlt => .inr (.inr ⟨x, rfl, hlt⟩)) _)
  | ldVxK =>
    cases hl : lowestKey s.key with
    | none => exact .of_answer (execLdVxK_wait hl) h (.refl _ s)
    | some k => exact .of_answer (execLdVxK_key hl) h (base.setReg rfl _)
  | call =>
    have hlt : s.sp.toNat < 16 := sp_lt_of_execCall (by simpa using hf) h
    exact .of_answer (execCall_push hlt) h ((TabledFrame.push hlt rfl _).setPc _)
  | ret =>
    have h0 : s.sp.toNat ≠ 0 := by simpa using hf
    have hlt := popIndex_lt h0 (sp_le_of_execRet h)
    exact .of_answer (execRet_pop h0 hlt) h (.popPc hlt rfl)

/-- Settles O14. A tabled fault writes the status register alone; an instruction that completes keeps its tabled
frame, of which the status register is no part. -/
theorem stateWrittenOnlyAsTabled : Obligations.StateWrittenOnlyAsTabled := by
  intro i s t h
  cases hf : faultCondition i s with
  | some c =>
    obtain rfl := Host.Outcome.next.inj ((exec_eq_raise_of_faultCondition hf).symm.trans h)
    exact ⟨fun r _ => by simp, fun p _ hp _ => unchangedBut_raise s c _ p (by simpa using hp), nofun⟩
  | none =>
    have frame := tabledFrame_of_exec hf h
    exact ⟨frame.regs, fun p hp _ => frame.parts p hp, fun _ => frame.parts .status (by simp) (mayWrite_status i)⟩

/-! ## The pc an instruction leaves (spec/10_state.md table T-R25) -/

theorem skipIf_advance_pc_toNat {s : State} (hpc : s.pc.toNat + 1 ≤ 0xFFF) (c : Bool) :
    (s.advance.skipIf c).pc.toNat = if c then s.pc.toNat + 4 else s.pc.toNat + 2 := by
  have h2 : (s.pc + 2).toNat = s.pc.toNat + 2 := toNat_add_two (by omega)
  have h4 : (s.pc + 2 + 2).toNat = s.pc.toNat + 4 := by rw [toNat_add_two (by omega), h2]
  cases c with
  | false => exact h2
  | true => exact h4

theorem zextAddr_toNat (nnn : Addr12) : (zextAddr nnn).toNat = nnn.toNat := by
  simp only [zextAddr, BitVec.toNat_setWidth]; omega

theorem v0Plus_toNat (s : State) (nnn : Addr12) : (v0Plus s nnn).toNat = (s.reg 0).toNat + nnn.toNat := by
  simp only [v0Plus, BitVec.toNat_ofNat]; omega

/-- The key a register's value names is pressed, as table T-R25's reading of SKP and SKNP says it. -/
theorem exists_keyIndex_pressed_iff {key : Vector Bool 16} {n : Nat} (hn : n < 16) :
    (∃ k : Fin 16, k.val = n ∧ key[k] = true) ↔ key[(⟨n, hn⟩ : Fin 16)] = true :=
  ⟨fun ⟨_, hk, hp⟩ => by subst hk; exact hp, fun hp => ⟨_, rfl, hp⟩⟩

/-- Settles O15. pc0 + 2, pc0 + 4, the jump target or the popped slot, row by row of table T-R25. -/
theorem pcAfterStepIsAsTabled : Obligations.PcAfterStepIsAsTabled := by
  intro i s hsp hpc hf
  have h2 : s.advance.pc.toNat = s.pc.toNat + 2 := toNat_add_two (by omega)
  have hskip := skipIf_advance_pc_toNat hpc
  cases i with
  | cls | ldImm | addImm | ldReg | or | and | xor | addReg | sub | shr | subn | shl | ldI | addI | ldF | ldVxDt
  | ldDtVx | ldStVx | nop => exact ⟨_, rfl, h2⟩
  | rnd => exact ⟨_, rfl, by simpa [nextPc] using h2⟩
  | seImm | sneImm | seReg | sneReg => exact ⟨_, rfl, by rw [hskip]; simp [nextPc]⟩
  | jp => exact ⟨_, rfl, zextAddr_toNat _⟩
  | jpV0 => exact ⟨_, rfl, v0Plus_toNat s _⟩
  | skp x =>
    have hk : (s.reg x).toNat < 16 := by simpa [Nat.lt_succ_iff] using hf
    exact ⟨_, execSkp_key (k := ⟨_, hk⟩) rfl, by rw [hskip]; simp only [nextPc, exists_keyIndex_pressed_iff hk]⟩
  | sknp x =>
    have hk : (s.reg x).toNat < 16 := by simpa [Nat.lt_succ_iff] using hf
    refine ⟨_, execSknp_key (k := ⟨_, hk⟩) rfl, ?_⟩
    rw [hskip]; simp only [nextPc, exists_keyIndex_pressed_iff hk]
    cases s.key[(⟨_, hk⟩ : Fin 16)] <;> rfl
  | drw => exact ⟨_, execDrw_inRange (by simpa using hf), h2⟩
  | ldMemVx => exact ⟨_, execLdMemVx_inRange (by simpa using hf), h2⟩
  | ldVxMem => exact ⟨_, execLdVxMem_inRange (by simpa using hf), h2⟩
  | ldB => exact ⟨_, execLdB_inRange (by simpa using hf), h2⟩
  | ldVxK =>
    cases hl : lowestKey s.key with
    | none =>
      have hnone : ¬ ∃ k : Fin 16, s.key[k] = true := by simpa using (lowestKey_eq_none_iff _).1 hl
      exact ⟨_, execLdVxK_wait hl, (if_neg hnone).symm⟩
    | some k =>
      have hsome : ∃ k : Fin 16, s.key[k] = true := ⟨k, (lowestKey_some hl).1⟩
      exact ⟨_, execLdVxK_key hl, h2.trans (if_pos hsome).symm⟩
  | call =>
    have hne : s.sp.toNat ≠ 16 := by simpa using hf
    exact ⟨_, execCall_push (by omega), zextAddr_toNat _⟩
  | ret =>
    have h0 : s.sp.toNat ≠ 0 := by simpa using hf
    refine ⟨_, execRet_pop h0 (popIndex_lt h0 hsp), ?_⟩
    have hslot : (s.sp - 1).toNat = (s.sp.toNat - 1) % 16 := by rw [sp_sub_one_toNat h0]; omega
    simp only [State.popPc_pc, nextPc, hslot]

/-! ## The state after init (spec/70_reset_and_hazards.md R340) -/

/-- An init that succeeds gives the reset state with the image in memory. -/
theorem eq_reset_of_init {font : Font} {image : List Byte} {s : State} (h : State.init font image = .ok s) :
    s = State.reset.setMem ((Memory.mk font []).writeBytes Config.progBase image) := by
  unfold State.init at h
  split at h
  · cases h
  · exact (Except.ok.inj h).symm

@[simp] theorem State.reset_reg (r : Reg) : State.reset.reg r = 0 := by
  simp [State.reg, State.reset]

theorem State.reset_stack_slot (j : Fin 16) : State.reset.stack[j] = 0 := by
  simp [State.reset]

/-- Settles O52: the image goes to memory alone, and the reset state holds these values. -/
theorem initLeavesResetValues : Obligations.InitLeavesResetValues := by
  intro font image s h
  obtain rfl := eq_reset_of_init h
  exact ⟨State.reset_reg, rfl, rfl, State.reset_stack_slot, rfl, rfl⟩

end Sys2Proof.Machine
end

section
/-! SUPPORT. The decoder against table T-R90 and against R92's list of unmapped words, and the obligations on the
encoding (spec/30_encoding.md). Family, n and kk are a word's keys: the dispatcher and the table's rows look at nothing
else of it. -/

namespace Sys2Proof

/-! ## Unmapped words by their keys (R92) -/

/-- The sub-keys n of family 0x0 that select an instruction (R87). -/
def subKeys0 : List (BitVec 4) := [0x0, 0xE]

/-- The sub-keys n of family 0x8 that select an instruction (R88). -/
def subKeys8 : List (BitVec 4) := [0x0, 0x1, 0x2, 0x3, 0x4, 0x5, 0x6, 0x7, 0xE]

/-- The sub-keys n of family 0xE that select an instruction (R89). -/
def subKeysE : List (BitVec 4) := [0xE, 0x1]

/-- The sub-keys kk of family 0xF that select an instruction (R90). -/
def subKeysF : List Byte := [0x07, 0x0A, 0x15, 0x18, 0x1E, 0x29, 0x33, 0x55, 0x65]

/-- R92's list: a multiplexed family with a sub-key that selects no instruction. -/
def unmappedKeys (f n : BitVec 4) (kk : Byte) : Prop :=
  f = 0x0#4 ∧ n ∉ subKeys0 ∨
  f = 0x8#4 ∧ n ∉ subKeys8 ∨
  f = 0xE#4 ∧ n ∉ subKeysE ∨
  f = 0xF#4 ∧ kk ∉ subKeysF

theorem unmappedWord_iff (w : Word) :
    unmappedWord w = true ↔ unmappedKeys (fieldFamily w) (fieldNBits w) (fieldKk w) := by
  have hfamily : w.toNat / 0x1000 % 16 = w.toNat / 4096 := by omega
  simp [unmappedWord, unmappedKeys, subKeys0, subKeys8, subKeysE, subKeysF, ← BitVec.toNat_inj, fieldFamily_toNat,
    fieldNBits_toNat, fieldKk_toNat, hfamily, or_assoc]
  exact or_congr .rfl (or_congr (and_congr_right fun _ => by omega) (or_congr (by omega) .rfl))

theorem dispatch0_eq_nop {w : Word} (h : fieldNBits w ∉ subKeys0) : dispatch0 w = .nop w := by
  unfold dispatch0; split <;> simp_all [subKeys0]

theorem dispatch8_eq_nop {w : Word} (h : fieldNBits w ∉ subKeys8) : dispatch8 w = .nop w := by
  unfold dispatch8; split <;> simp_all [subKeys8]

theorem dispatchE_eq_nop {w : Word} (h : fieldNBits w ∉ subKeysE) : dispatchE w = .nop w := by
  unfold dispatchE; split <;> simp_all [subKeysE]

theorem dispatchF_eq_nop {w : Word} (h : fieldKk w ∉ subKeysF) : dispatchF w = .nop w := by
  unfold dispatchF; split <;> simp_all [subKeysF]

theorem decodeWord_eq_nop_of_unmapped {w : Word} (h : unmappedWord w = true) : decodeWord w = .nop w := by
  rcases (unmappedWord_iff w).1 h with ⟨hf, hk⟩ | ⟨hf, hk⟩ | ⟨hf, hk⟩ | ⟨hf, hk⟩
  · simpa only [decodeWord, hf] using dispatch0_eq_nop hk
  · simpa only [decodeWord, hf] using dispatch8_eq_nop hk
  · simpa only [decodeWord, hf] using dispatchE_eq_nop hk
  · simpa only [decodeWord, hf] using dispatchF_eq_nop hk

/-! ## The rows of table T-R90 by their keys -/

/-- The row's family is `f`, and its sub-key is `n` or `kk`, whichever its mask examines, if either. -/
def OpRow.hasKeys (r : OpRow) (f n : BitVec 4) (kk : Byte) : Bool :=
  f == fieldFamily r.bits &&
    (r.mask == 0xF000#16 || r.mask == 0xF00F#16 && n == fieldNBits r.bits ||
      r.mask == 0xF0FF#16 && kk == fieldKk r.bits)

/-- A row of the table examines the family and at most one sub-key, and selects its own match bits. -/
theorem mask_of_mem_opcodeRows {r : OpRow} (hr : r ∈ opcodeRows) :
    (r.mask = 0xF000#16 ∨ r.mask = 0xF00F#16 ∨ r.mask = 0xF0FF#16) ∧ r.selects r.bits = true := by
  revert r; decide

theorem selects_eq_hasKeys {r : OpRow} (hr : r ∈ opcodeRows) (w : Word) :
    r.selects w = r.hasKeys (fieldFamily w) (fieldNBits w) (fieldKk w) := by
  obtain ⟨hm, hb⟩ := mask_of_mem_opcodeRows hr
  rw [Bool.eq_iff_iff]
  rcases hm with hm | hm | hm
  · rw [selects_family hm] at hb ⊢
    simp [OpRow.hasKeys, hm, ← BitVec.toNat_inj]
    omega
  · rw [selects_family_n hm] at hb ⊢
    simp [OpRow.hasKeys, hm, ← BitVec.toNat_inj]
    omega
  · rw [selects_family_kk hm] at hb ⊢
    simp [OpRow.hasKeys, hm, ← BitVec.toNat_inj]
    omega

/-- The mnemonics of the rows that have these keys. -/
def rowNames (f n : BitVec 4) (kk : Byte) : List String :=
  (opcodeRows.filter fun r => r.hasKeys f n kk).map fun r => r.mnemonic

theorem selected_mnemonics_eq_rowNames (w : Word) :
    (opcodeRows.filter fun r => r.selects w).map (fun r => r.mnemonic) =
      rowNames (fieldFamily w) (fieldNBits w) (fieldKk w) := by
  rw [rowNames, List.filter_congr fun r hr => selects_eq_hasKeys hr w]

theorem rowNames_eq_nil_of_unmapped {f n : BitVec 4} {kk : Byte} (h : unmappedKeys f n kk) : rowNames f n kk = [] := by
  rw [rowNames, List.map_eq_nil_iff, List.filter_eq_nil_iff]
  rcases h with ⟨rfl, hk⟩ | ⟨rfl, hk⟩ | ⟨rfl, hk⟩ | ⟨rfl, hk⟩ <;>
    simpa [opcodeRows, OpRow.hasKeys, fieldFamily, fieldNBits, fieldKk,
      subKeys0, subKeys8, subKeysE, subKeysF] using hk

/-! ## A mapped word has exactly the row of its instruction -/

theorem rowNames_dispatch0 {w : Word} (h : fieldNBits w ∈ subKeys0) :
    rowNames 0x0#4 (fieldNBits w) (fieldKk w) = [(dispatch0 w).mnemonic] := by
  unfold dispatch0
  split
  case h_3 => simp_all [subKeys0]
  all_goals next hn => rw [hn]; rfl

theorem rowNames_dispatch8 {w : Word} (h : fieldNBits w ∈ subKeys8) :
    rowNames 0x8#4 (fieldNBits w) (fieldKk w) = [(dispatch8 w).mnemonic] := by
  unfold dispatch8
  split
  case h_10 => simp_all [subKeys8]
  all_goals next hn => rw [hn]; rfl

theorem rowNames_dispatchE {w : Word} (h : fieldNBits w ∈ subKeysE) :
    rowNames 0xE#4 (fieldNBits w) (fieldKk w) = [(dispatchE w).mnemonic] := by
  unfold dispatchE
  split
  case h_3 => simp_all [subKeysE]
  all_goals next hn => rw [hn]; rfl

theorem rowNames_dispatchF {w : Word} (h : fieldKk w ∈ subKeysF) :
    rowNames 0xF#4 (fieldNBits w) (fieldKk w) = [(dispatchF w).mnemonic] := by
  unfold dispatchF
  split
  case h_10 => simp_all [subKeysF]
  all_goals next hk => rw [hk]; rfl

theorem rowNames_decodeWord_of_mapped {w : Word} (h : unmappedWord w ≠ true) :
    rowNames (fieldFamily w) (fieldNBits w) (fieldKk w) = [(decodeWord w).mnemonic] := by
  rw [ne_eq, unmappedWord_iff] at h
  unfold decodeWord
  split
  case h_1 hf => rw [hf, rowNames_dispatch0 (not_not.1 fun hk => h (.inl ⟨hf, hk⟩))]
  case h_9 hf => rw [hf, rowNames_dispatch8 (not_not.1 fun hk => h (.inr (.inl ⟨hf, hk⟩)))]
  case h_15 hf => rw [hf, rowNames_dispatchE (not_not.1 fun hk => h (.inr (.inr (.inl ⟨hf, hk⟩))))]
  case h_16 hf => rw [hf, rowNames_dispatchF (not_not.1 fun hk => h (.inr (.inr (.inr ⟨hf, hk⟩))))]
  case h_17 => -- no seventeenth family
    exfalso
    simp [← BitVec.toNat_inj] at *
    omega
  all_goals next hf => rw [hf]; rfl

theorem ne_nop_of_mem_rowNames {m : String} {f n : BitVec 4} {kk : Byte} (h : m ∈ rowNames f n kk) : m ≠ "NOP" := by
  obtain ⟨r, hr, rfl⟩ := List.mem_map.1 h
  have named : ∀ r ∈ opcodeRows, r.mnemonic ≠ "NOP" := by decide
  exact named r (List.mem_filter.1 hr).1

/-- Settles O3. An unmapped word has no row and decodes to the no-op; any other has its instruction's row alone. -/
theorem decoderFollowsOpcodeTable : Obligations.DecoderFollowsOpcodeTable := by
  intro w
  rw [selected_mnemonics_eq_rowNames]
  by_cases h : unmappedWord w = true
  · rw [rowNames_eq_nil_of_unmapped ((unmappedWord_iff w).1 h), decodeWord_eq_nop_of_unmapped h]; rfl
  · have hrow := rowNames_decodeWord_of_mapped h
    have hne : (decodeWord w).mnemonic ≠ "NOP" :=
      ne_nop_of_mem_rowNames (by rw [hrow]; exact List.mem_singleton_self _)
    rw [hrow, if_neg hne]

/-- Settles O4, by running the decoder on each of the nine words. -/
theorem specWordsDecode : Obligations.SpecWordsDecode := by
  unfold Obligations.SpecWordsDecode; decide

end Sys2Proof

namespace Sys2Proof.Machine

/-! ## The no-op (R92) -/

theorem exec_nop (w : Word) (s : State) : exec (.nop w) s = .next s.advance := rfl

theorem step_of_fetch {s : State} {w : Word} (hrun : s.status.state = .run) (hw : s.fetch = some w) :
    step s = exec (decodeWord w) s := by
  simp only [step, hrun, hw]

/-- Settles O50: an unmapped word decodes to its no-op, and the no-op advances pc alone. -/
theorem unmappedWordIsNoOp : Obligations.UnmappedWordIsNoOp := by
  intro w s hw
  have hnop : ∃ t, exec (.nop w) s = .next t ∧ t.pc = s.pc + 2 ∧ UnchangedBut [.pc] s t :=
    ⟨_, exec_nop w s, State.advance_pc s, unchangedBut_advance s⟩
  refine ⟨hnop, fun hrun hfetch => ?_⟩
  rwa [step_of_fetch hrun hfetch, decodeWord_eq_nop_of_unmapped hw]

end Sys2Proof.Machine
end

section
/-! SUPPORT. What an ALU instruction without a flag writes, and the obligation on LD_IMM (spec/42_alu.md). -/

namespace Sys2Proof.Machine

theorem unchangedBut_aluStep (s : State) (op : AluOp) (x : Reg) (b : Byte) :
    UnchangedBut [.regs, .pc] s (s.aluStep op x b) := by
  intro p hp; cases p <;> simp_all [Part.same]

theorem reg_aluStep_same_of_noFlag {s : State} {op : AluOp} {x : Reg} {b : Byte}
    (hf : (alu op (s.reg x) b).flag = none) : (s.aluStep op x b).reg x = (alu op (s.reg x) b).result := by
  simp [State.reg_aluStep, hf]

theorem regsUnchangedBut_aluStep_of_noFlag {s : State} {op : AluOp} {x : Reg} {b : Byte}
    (hf : (alu op (s.reg x) b).flag = none) : RegsUnchangedBut [x] s (s.aluStep op x b) := by
  intro r hr
  have hne : r ≠ x := by simpa using hr
  simp [State.reg_aluStep, hf, hne]

theorem exec_ldImm (x : Reg) (kk : Byte) (s : State) : exec (.ldImm x kk) s = .next (s.aluStep .passB x kk) := rfl

/-- Settles O24: LD_IMM is the ALU's passB, whose result is kk and which has no flag (R152). -/
theorem loadImmediateWritesRegister : Obligations.LoadImmediateWritesRegister := by
  intro x kk s
  have hflag : (alu .passB (s.reg x) kk).flag = none := rfl
  exact ⟨_, exec_ldImm x kk s, reg_aluStep_same_of_noFlag hflag, State.aluStep_pc s .passB x kk,
    regsUnchangedBut_aluStep_of_noFlag hflag, unchangedBut_aluStep s .passB x kk⟩

end Sys2Proof.Machine
end

section
/-! SUPPORT. The obligations on the screen and on the collision flag (spec/44_display.md). -/

namespace Sys2Proof.Machine

/-! ## CLS (R200) -/

theorem clearScreen_cell (r : Fin 32) (c : Fin 64) : clearScreen[r][c] = false := by
  simp [clearScreen]

/-- The pieces two changes after one another may write, the later one's first. -/
theorem UnchangedBut.trans {w₁ w₂ : List Part} {s t u : State} (h₁ : UnchangedBut w₁ s t)
    (h₂ : UnchangedBut w₂ t u) : UnchangedBut (w₂ ++ w₁) s u := fun p hp => by
  obtain ⟨hp₂, hp₁⟩ : p ∉ w₂ ∧ p ∉ w₁ := by simpa using hp
  exact Part.same_trans (h₁ p hp₁) (h₂ p hp₂)

theorem exec_cls (ign : Byte) (s : State) : exec (.cls ign) s = .next (s.advance.setFb clearScreen) := rfl

/-- Settles O33: the cleared screen is written after pc's advance, and nothing else is. -/
theorem clearScreenClearsEveryCell : Obligations.ClearScreenClearsEveryCell := fun ign s =>
  ⟨_, exec_cls ign s, clearScreen_cell, State.advance_pc s,
    (unchangedBut_advance s).trans (unchangedBut_setFb s.advance clearScreen)⟩

/-! ## DRW (R208) -/

theorem exec_drw (x y : Reg) (n : Fin 16) (s : State) : exec (.drw x y n) s = execDrw x y n s := rfl

/-- Settles O35: DRW's flag is `spriteHits` and its screen is `drawSprite`, so `spriteHits_iff` says when VF is 1. -/
theorem drawFlagIsCollision : Obligations.DrawFlagIsCollision := by
  intro x y n s t hn h
  rw [exec_drw, execDrw_inRange (State.inRange hn)] at h
  obtain rfl := Host.Outcome.next.inj h
  simp only [State.setFlag_fb, State.setFb_fb, State.reg_setFlag, if_true]
  rw [← spriteHits_iff]
  exact ⟨fun hit => by rw [hit]; rfl, fun miss => by rw [Bool.eq_false_of_not_eq_true miss]; rfl⟩

end Sys2Proof.Machine
end

section
/-! SUPPORT. The obligations on the timer instructions and on I (spec/46_timer_key_index.md). -/

namespace Sys2Proof.Machine

/-! ## LD_VX_DT, LD_DT_VX and LD_ST_VX (R240 to R242) -/

theorem exec_ldVxDt (x : Reg) (s : State) : exec (.ldVxDt x) s = .next (s.advance.setReg x s.dt) := rfl

theorem exec_ldDtVx (x : Reg) (s : State) : exec (.ldDtVx x) s = .next (s.advance.setDt (s.reg x)) := rfl

theorem exec_ldStVx (x : Reg) (s : State) : exec (.ldStVx x) s = .next (s.advance.setSt (s.reg x)) := rfl

theorem reg_setReg_same (s : State) (x : Reg) (b : Byte) : (s.setReg x b).reg x = b := by
  rw [State.reg_setReg, if_pos rfl]

theorem regsUnchangedBut_advance_setReg (s : State) (x : Reg) (b : Byte) :
    RegsUnchangedBut [x] s (s.advance.setReg x b) := by
  intro r hr
  have hne : r ≠ x := by simpa using hr
  rw [State.reg_setReg, if_neg hne, State.reg_advance]

/-- Settles O45: each of the three writes its one destination after pc's advance, and nothing else is written. -/
theorem timerInstructionsMoveBytes : Obligations.TimerInstructionsMoveBytes := by
  intro x s
  have hpc := unchangedBut_advance s
  refine ⟨⟨_, exec_ldVxDt x s, ?_⟩, ⟨_, exec_ldDtVx x s, ?_⟩, ⟨_, exec_ldStVx x s, ?_⟩⟩
  · exact ⟨reg_setReg_same .., State.advance_pc s, regsUnchangedBut_advance_setReg s x s.dt,
      hpc.trans (unchangedBut_setReg s.advance x s.dt)⟩
  · exact ⟨State.setDt_dt .., State.advance_pc s, hpc.trans (unchangedBut_setDt s.advance (s.reg x))⟩
  · exact ⟨State.setSt_st .., State.advance_pc s, hpc.trans (unchangedBut_setSt s.advance (s.reg x))⟩

/-! ## LD_I and ADD_I (R250, R251) -/

theorem exec_ldI (nnn : Addr12) (s : State) : exec (.ldI nnn) s = .next (s.advance.setIndex (zextAddr nnn)) := rfl

theorem exec_addI (x : Reg) (s : State) : exec (.addI x) s = .next (s.advance.setIndex (indexPlus s x)) := rfl

theorem indexPlus_toNat (s : State) (x : Reg) :
    (indexPlus s x).toNat = (s.index.toNat + (s.reg x).toNat) % 65536 := BitVec.toNat_ofNat ..

theorem unchangedBut_advance_setIndex (s : State) (a : Word) : UnchangedBut [.index, .pc] s (s.advance.setIndex a) :=
  (unchangedBut_advance s).trans (unchangedBut_setIndex s.advance a)

/-- Settles O48: I takes nnn zero-extended, or the 16-bit sum, which `indexPlus_toNat` says wraps; the frame leaves
every register, VF too, as it was. -/
theorem indexLoadsAndAdds : Obligations.IndexLoadsAndAdds := by
  constructor
  · intro nnn s
    exact ⟨_, exec_ldI nnn s, zextAddr_toNat nnn, State.advance_pc s, unchangedBut_advance_setIndex s _⟩
  · intro x s
    exact ⟨_, exec_addI x s, indexPlus_toNat s x, State.advance_pc s, unchangedBut_advance_setIndex s _⟩

end Sys2Proof.Machine
end

section
/-! SUPPORT. The obligations on the faults of table T-R302, on the FAULT state and on JP's fetch past memory
(spec/60_exceptions.md, spec/41_jump_call.md R130). -/

namespace Sys2Proof.Machine

/-! ## Table T-R302: the instructions that fault and those that complete -/

/-- Settles O8: exec there is `State.raise`, which writes the status register alone. -/
theorem tabledConditionsFault : Obligations.TabledConditionsFault := fun i s c h =>
  ⟨_, exec_eq_raise_of_faultCondition h, State.raise_status s c (encode i), unchangedBut_raise s c (encode i)⟩

/-- An instruction without a tabled cause completes: each of the eight that can fault takes its other branch. -/
theorem exec_eq_next_of_noFault {i : Instr} {s : State} (hsp : s.sp.toNat ≤ 16) (hf : faultCondition i s = none) :
    ∃ t, exec i s = .next t := by
  cases i with
  | drw => exact ⟨_, execDrw_inRange (by simpa using hf)⟩
  | ldVxMem => exact ⟨_, execLdVxMem_inRange (by simpa using hf)⟩
  | ldMemVx => exact ⟨_, execLdMemVx_inRange (by simpa using hf)⟩
  | ldB => exact ⟨_, execLdB_inRange (by simpa using hf)⟩
  | call =>
    have hne : s.sp.toNat ≠ 16 := by simpa using hf
    exact ⟨_, execCall_push (by omega)⟩
  | ret =>
    have h0 : s.sp.toNat ≠ 0 := by simpa using hf
    exact ⟨_, execRet_pop h0 (popIndex_lt h0 hsp)⟩
  | skp x =>
    have hk : (s.reg x).toNat < 16 := by simpa [Nat.lt_succ_iff] using hf
    exact ⟨_, execSkp_key (k := ⟨_, hk⟩) rfl⟩
  | sknp x =>
    have hk : (s.reg x).toNat < 16 := by simpa [Nat.lt_succ_iff] using hf
    exact ⟨_, execSknp_key (k := ⟨_, hk⟩) rfl⟩
  | ldVxK =>
    cases hl : lowestKey s.key with
    | none => exact ⟨_, execLdVxK_wait hl⟩
    | some => exact ⟨_, execLdVxK_key hl⟩
  | _ => exact ⟨_, rfl⟩

/-- Settles O9: the instruction completes, and the status register is no part of its tabled frame. -/
theorem nothingElseFaults : Obligations.NothingElseFaults := by
  intro i s hsp hf
  obtain ⟨t, ht⟩ := exec_eq_next_of_noFault hsp hf
  exact ⟨t, ht, (tabledFrame_of_exec hf ht).parts .status (by decide) (mayWrite_status i)⟩

/-! ## The FAULT state (spec/60_exceptions.md R304) -/

theorem step_of_fault {s : State} (h : s.status.state = .fault) : step s = .next s := by
  simp only [step, h]

theorem unchangedBut_refl (w : List Part) (s : State) : UnchangedBut w s s := by
  intro p _; cases p <;> simp [Part.same]

/-- A frame that lets more pieces be written is a weaker one. -/
theorem UnchangedBut.mono {w w' : List Part} {s t : State} (h : UnchangedBut w s t) (hw : w ⊆ w') :
    UnchangedBut w' s t := fun p hp => h p fun hmem => hp (hw hmem)

theorem unchangedBut_tick (s : State) : UnchangedBut [.dt, .st] s s.tick := by
  intro p hp; cases p <;> simp_all [Part.same]

theorem unchangedBut_setKeys (s : State) (k : Vector Bool 16) : UnchangedBut [.key] s (s.setKeys k) := by
  intro p hp; cases p <;> simp_all [Part.same]

theorem unchangedBut_supplyRand (s : State) (b : Byte) : UnchangedBut [.random] s (s.supplyRand b) := by
  intro p hp; cases p <;> simp_all [Part.same]

theorem applyMove_step_of_fault {s : State} (h : s.status.state = .fault) : applyMove .step s = .done s .nothing := by
  simp only [applyMove, step_of_fault h]

/-- In FAULT a move other than init writes the timers, the keypad or the random source, or nothing. -/
theorem unchangedBut_of_applyMove_of_fault {m : Move} {s t : State} {r : Reply} (hs : s.status.state = .fault)
    (hm : ∀ image, m ≠ .init image) (h : applyMove m s = .done t r) :
    UnchangedBut [.dt, .st, .key, .random] s t := by
  cases m with
  | init image => exact absurd rfl (hm image)
  | step =>
    obtain ⟨rfl, -⟩ := MoveResult.done.inj ((applyMove_step_of_fault hs).symm.trans h)
    exact unchangedBut_refl _ s
  | setKeys k =>
    obtain ⟨rfl, -⟩ := MoveResult.done.inj h
    exact (unchangedBut_setKeys s k).mono (by decide)
  | tick =>
    obtain ⟨rfl, -⟩ := MoveResult.done.inj h
    exact (unchangedBut_tick s).mono (by decide)
  | readFb | readTimers | readStatus =>
    obtain ⟨rfl, -⟩ := MoveResult.done.inj h
    exact unchangedBut_refl _ s
  | rand b =>
    obtain ⟨rfl, -⟩ := MoveResult.done.inj h
    exact (unchangedBut_supplyRand s b).mono (by decide)

/-- init of an image that fits succeeds, with the reset state around the image (R340). -/
theorem init_eq_ok_of_length_le {image : List Byte} (font : Font) (h : image.length ≤ Config.maxImage) :
    State.init font image = .ok (State.reset.setMem ((Memory.mk font []).writeBytes Config.progBase image)) :=
  if_neg (Nat.not_lt.2 h)

/-- The init move of an image that fits, in whatever state: its status register is the reset state's, clear. -/
theorem applyMove_init_of_length_le {image : List Byte} (s : State) (h : image.length ≤ Config.maxImage) :
    ∃ t, applyMove (.init image) s = .done t .ok ∧ t.status = Status.clear := by
  simp only [applyMove, init_eq_ok_of_length_le s.mem.font h]
  exact ⟨_, rfl, rfl⟩

/-- Settles O55, move by move: no move but init writes the status register of a faulted core, and init clears it. -/
theorem faultIsLeftOnlyByInit : Obligations.FaultIsLeftOnlyByInit := fun s hs =>
  ⟨fun _ _ _ hm h => unchangedBut_of_applyMove_of_fault hs hm h, fun _ hlen => applyMove_init_of_length_le s hlen⟩

/-! ## JP and the fetch past memory (spec/41_jump_call.md R130, spec/30_encoding.md R93) -/

theorem exec_jp (nnn : Addr12) (s : State) : exec (.jp nnn) s = .next (s.setPc (zextAddr nnn)) := rfl

theorem step_of_fetch_none {s : State} (hrun : s.status.state = .run) (hpc : s.pc.toNat + 1 > 0xFFF) :
    step s = .next (s.raise .fetchOob 0x0000) := by
  simp only [step, hrun, State.fetch_eq_none s hpc]

/-- Settles O19: the jump writes pc alone, and a pc of 0xFFF has no second byte to fetch. -/
theorem jumpSetsPc : Obligations.JumpSetsPc := by
  intro nnn s
  refine ⟨_, exec_jp nnn s, zextAddr_toNat nnn, unchangedBut_setPc s _, fun hnnn hrun => ?_⟩
  have hpc : zextAddr nnn = 0x0FFF := BitVec.eq_of_toNat_eq ((zextAddr_toNat nnn).trans hnnn)
  rw [hpc]
  exact ⟨_, step_of_fetch_none hrun (by simp), State.raise_status .., unchangedBut_raise _ _ _⟩

end Sys2Proof.Machine
end

section
/-! SUPPORT. The round trips between words and instructions (spec/30_encoding.md T-R90, R92). -/

namespace Sys2Proof

/-! ## From the instruction to its word and back -/

/-- Settles O1. A no-op's word is unmapped; in every other encoding the family and the sub-key lead the dispatcher back
to the instruction's own arm, which reads its operands from the fields they were packed into. -/
theorem decodeOfEncodeIsIdentity : Obligations.DecodeOfEncodeIsIdentity := by
  intro i hi
  cases i with
  | nop w => exact decodeWord_eq_nop_of_unmapped hi
  | cls | ret => simp [encode, decodeWord, dispatch0]
  | jp | call | ldI | jpV0 | seImm | sneImm | ldImm | addImm | rnd | seReg | sneReg | drw =>
    simp [encode, decodeWord]
  | ldReg | or | and | xor | addReg | sub | shr | subn | shl => simp [encode, decodeWord, dispatch8]
  | skp | sknp => simp [encode, decodeWord, dispatchE]
  | ldVxDt | ldVxK | ldDtVx | ldStVx | addI | ldF | ldB | ldMemVx | ldVxMem =>
    simp [encode, decodeWord, dispatchF]

/-! ## From the word to its instruction and back -/

/-- `i` is an instruction whose word is `w`. -/
def HasWord (w : Word) (i : Instr) : Prop := i.WellFormed ∧ encode i = w

theorem packXYN_of_fields {w : Word} {f n : BitVec 4} (hf : fieldFamily w = f) (hn : fieldNBits w = n) :
    packXYN f (regBits (fieldX w)) (regBits (fieldY w)) n = w := by
  rw [← hf, ← hn, packXYN_fields]

theorem packXKk_of_fields {w : Word} {f : BitVec 4} {kk : Byte} (hf : fieldFamily w = f) (hk : fieldKk w = kk) :
    packXKk f (regBits (fieldX w)) kk = w := by
  rw [← hf, ← hk, packXKk_fields]

theorem packNnn_of_fields {w : Word} {f : BitVec 4} (hf : fieldFamily w = f) : packNnn f (fieldNnn w) = w := by
  rw [← hf, packNnn_fields]

theorem packMidN_of_fields {w : Word} {f n : BitVec 4} (hf : fieldFamily w = f) (hn : fieldNBits w = n) :
    packMidN f (fieldMid w) n = w := by
  rw [← hf, ← hn, packMidN_fields]

theorem hasWord_nop {w : Word} (h : unmappedKeys (fieldFamily w) (fieldNBits w) (fieldKk w)) : HasWord w (.nop w) :=
  ⟨(unmappedWord_iff w).2 h, rfl⟩

theorem hasWord_dispatch0 {w : Word} (hf : fieldFamily w = 0x0#4) : HasWord w (dispatch0 w) := by
  unfold dispatch0
  split
  case h_3 => exact hasWord_nop (.inl ⟨hf, by simp_all [subKeys0]⟩)
  all_goals next hn => exact ⟨rfl, packMidN_of_fields hf hn⟩

theorem hasWord_dispatch8 {w : Word} (hf : fieldFamily w = 0x8#4) : HasWord w (dispatch8 w) := by
  unfold dispatch8
  split
  case h_10 => exact hasWord_nop (.inr (.inl ⟨hf, by simp_all [subKeys8]⟩))
  all_goals next hn => exact ⟨rfl, packXYN_of_fields hf hn⟩

theorem hasWord_dispatchE {w : Word} (hf : fieldFamily w = 0xE#4) : HasWord w (dispatchE w) := by
  unfold dispatchE
  split
  case h_3 => exact hasWord_nop (.inr (.inr (.inl ⟨hf, by simp_all [subKeysE]⟩)))
  all_goals next hn => exact ⟨rfl, packXYN_of_fields hf hn⟩

theorem hasWord_dispatchF {w : Word} (hf : fieldFamily w = 0xF#4) : HasWord w (dispatchF w) := by
  unfold dispatchF
  split
  case h_10 => exact hasWord_nop (.inr (.inr (.inr ⟨hf, by simp_all [subKeysF]⟩)))
  all_goals next hk => exact ⟨rfl, packXKk_of_fields hf hk⟩

/-- Settles O2, family by family: an instruction that keeps the fields of its word packs them into that word again. -/
theorem encodeOfDecodeIsIdentity : Obligations.EncodeOfDecodeIsIdentity := by
  intro w
  change HasWord w (decodeWord w)
  unfold decodeWord
  split
  case h_1 hf => exact hasWord_dispatch0 hf
  case h_9 hf => exact hasWord_dispatch8 hf
  case h_15 hf => exact hasWord_dispatchE hf
  case h_16 hf => exact hasWord_dispatchF hf
  case h_2 hf | h_3 hf | h_11 hf | h_12 hf => exact ⟨rfl, packNnn_of_fields hf⟩
  case h_4 hf | h_5 hf | h_7 hf | h_8 hf | h_13 hf => exact ⟨rfl, packXKk_of_fields hf rfl⟩
  case h_6 hf | h_10 hf | h_14 hf => exact ⟨rfl, packXYN_of_fields hf rfl⟩
  case h_17 => -- no seventeenth family
    exfalso
    simp [← BitVec.toNat_inj] at *
    omega

end Sys2Proof
end

section
/-! SUPPORT. The invariant (spec/10_state.md, spec/20_memory.md): what a step can answer, that steps and host moves keep
the invariant, and that a step from it always answers a next state. -/

namespace Sys2Proof.Machine

/-! ## What a step can answer (spec/30_encoding.md R95) -/

/-- A step does nothing in FAULT, faults at a fetch past memory, or runs an instruction at a pc that can be fetched. -/
theorem step_cases (s : State) :
    (s.status.state = .fault ∧ step s = .next s) ∨ step s = .next (s.raise .fetchOob 0x0000) ∨
      ∃ i, s.status.state = .run ∧ s.pc.toNat + 1 ≤ 0xFFF ∧ step s = exec i s := by
  cases hs : s.status.state with
  | fault => exact .inl ⟨rfl, step_of_fault hs⟩
  | run =>
    cases hw : s.fetch with
    | some w => exact .inr (.inr ⟨_, rfl, State.pc_le_of_fetch hw, step_of_fetch hs hw⟩)
    | none => exact .inr (.inl (by simp only [step, hs, hw]))

/-! ## The parts of the invariant that a completing instruction keeps -/

theorem sp_stack_of_execCall {nnn : Addr12} {s t : State} (hpc : s.pc.toNat + 1 ≤ 0xFFF)
    (hslots : ∀ j : Fin 16, s.stack[j].toNat ≤ 0x1000) (hlt : s.sp.toNat < 16) (h : execCall nnn s = .next t) :
    t.sp.toNat ≤ 16 ∧ ∀ j : Fin 16, t.stack[j].toNat ≤ 0x1000 := by
  obtain rfl := Host.Outcome.next.inj ((execCall_push hlt).symm.trans h)
  have hret : (s.pc + 2).toNat ≤ 0x1000 := by rw [toNat_add_two (by omega)]; omega
  refine ⟨(sp_add_one_toNat hlt).trans_le hlt, fun j => ?_⟩
  simp only [State.setPc_stack, State.push_stack, Fin.getElem_fin, Vector.getElem_set]
  split
  · exact hret
  · exact hslots j

/-- sp and the slots stay in range: CALL pushes pc0 + 2 below the top, RET lowers sp, and no other instruction writes
them. -/
theorem sp_stack_of_exec {i : Instr} {s t : State} (hsp : s.sp.toNat ≤ 16) (hpc : s.pc.toNat + 1 ≤ 0xFFF)
    (hslots : ∀ j : Fin 16, s.stack[j].toNat ≤ 0x1000) (hf : faultCondition i s = none) (h : exec i s = .next t) :
    t.sp.toNat ≤ 16 ∧ ∀ j : Fin 16, t.stack[j].toNat ≤ 0x1000 := by
  have frame := tabledFrame_of_exec hf h
  cases i with
  | call nnn => exact sp_stack_of_execCall hpc hslots (sp_lt_of_execCall (by simpa using hf) h) h
  | ret =>
    have h0 : s.sp.toNat ≠ 0 := by simpa using hf
    obtain rfl := Host.Outcome.next.inj ((execRet_pop h0 (popIndex_lt h0 hsp)).symm.trans h)
    exact ⟨by rw [State.popPc_sp, sp_sub_one_toNat h0]; omega, hslots⟩
  | _ =>
    obtain ⟨hs, hst⟩ := frame.parts .stack (by decide) rfl
    rw [hs, hst]
    exact ⟨hsp, hslots⟩

/-- The pc of table T-R25 stays at most 0xFF + 0xFFF = 0x10FE, the largest target of JP_V0 (spec/10_state.md R26). -/
theorem nextPc_le {i : Instr} {s : State} (hpc : s.pc.toNat + 1 ≤ 0xFFF)
    (hslots : ∀ j : Fin 16, s.stack[j].toNat ≤ 0x1000) : nextPc i s ≤ 0x10FE := by
  cases i with
  | ret =>
    have := hslots ⟨(s.sp.toNat - 1) % 16, by omega⟩
    exact this.trans (by decide)
  | jp nnn | call nnn => simp only [nextPc]; omega
  | jpV0 nnn => simp only [nextPc]; omega
  | seImm | sneImm | seReg | sneReg | skp | sknp | ldVxK => simp only [nextPc]; split <;> omega
  | _ => simp only [nextPc]; omega

/-- The memory of the state an answer is known to hold. -/
theorem mem_of_answer {o : Result} {m : Memory} {t u : State} (hu : o = .next u) (h : o = .next t) (hm : u.mem = m) :
    t.mem = m :=
  Host.Outcome.next.inj (hu.symm.trans h) ▸ hm

/-- An instruction the tables let write no memory keeps it, not only byte by byte but as data. -/
theorem mem_eq_of_exec {i : Instr} {s t : State} (hsp : s.sp.toNat ≤ 16) (hf : faultCondition i s = none)
    (hw : mayWrite i .memory = false) (h : exec i s = .next t) : t.mem = s.mem := by
  cases i with
  | ldMemVx | ldB => cases hw
  | drw => exact mem_of_answer (execDrw_inRange (by simpa using hf)) h rfl
  | ldVxMem => exact mem_of_answer (execLdVxMem_inRange (by simpa using hf)) h rfl
  | call => exact mem_of_answer (execCall_push (sp_lt_of_execCall (by simpa using hf) h)) h rfl
  | ret =>
    have h0 : s.sp.toNat ≠ 0 := by simpa using hf
    exact mem_of_answer (execRet_pop h0 (popIndex_lt h0 hsp)) h rfl
  | skp x =>
    have hk : (s.reg x).toNat < 16 := by simpa [Nat.lt_succ_iff] using hf
    exact mem_of_answer (execSkp_key (k := ⟨_, hk⟩) rfl) h (State.skipIf_mem ..)
  | sknp x =>
    have hk : (s.reg x).toNat < 16 := by simpa [Nat.lt_succ_iff] using hf
    exact mem_of_answer (execSknp_key (k := ⟨_, hk⟩) rfl) h (State.skipIf_mem ..)
  | ldVxK =>
    cases hl : lowestKey s.key with
    | none => exact mem_of_answer (execLdVxK_wait hl) h rfl
    | some => exact mem_of_answer (execLdVxK_key hl) h rfl
  | seImm | sneImm | seReg | sneReg => exact mem_of_answer rfl h (State.skipIf_mem ..)
  | rnd => exact mem_of_answer rfl h (State.drawn_mem s.advance)
  | _ => exact mem_of_answer rfl h rfl

/-- A block write through I that is in range keeps memory canonical. -/
theorem writeBytes_base_wf {s : State} (hm : s.mem.wf) {bs : List Byte} (hr : ¬ s.outOfRange bs.length) :
    (s.mem.writeBytes s.base bs).wf := by
  refine Memory.writeBytes_wf hm ?_
  rw [State.outOfRange_iff] at hr
  rw [← List.length_eq_zero_iff]
  change bs.length = 0 ∨ s.index.toNat + bs.length ≤ 4096
  omega

/-- Memory stays canonical: the two stores write inside it, no other instruction writes it. -/
theorem mem_wf_of_exec {i : Instr} {s t : State} (hsp : s.sp.toNat ≤ 16) (hm : s.mem.wf)
    (hf : faultCondition i s = none) (h : exec i s = .next t) : t.mem.wf := by
  cases i with
  | ldMemVx x =>
    have hr : ¬ s.outOfRange x.val := by simpa using hf
    rw [mem_of_answer (execLdMemVx_inRange hr) h rfl]
    exact writeBytes_base_wf hm (by rwa [State.regsBelow_length s (by omega)])
  | ldB x =>
    have hr : ¬ s.outOfRange 3 := by simpa using hf
    rw [mem_of_answer (execLdB_inRange hr) h rfl]
    exact writeBytes_base_wf hm hr
  | _ => rwa [mem_eq_of_exec hsp hf rfl h]

/-! ## The invariant -/

/-- No row of table T-R302 records the cause NONE. -/
theorem ne_none_of_faultCondition {i : Instr} {s : State} {c : Cause} (h : faultCondition i s = some c) :
    c ≠ .none := by
  rintro rfl
  cases i <;> simp [faultCondition] at h

theorem State.Inv.raise {s : State} (h : s.Inv) {c : Cause} (hc : c ≠ .none) (w : Word) : (s.raise c w).Inv := by
  obtain ⟨hsp, hpc, hslots, hmem, -⟩ := h
  exact ⟨hsp, hpc, hslots, hmem, nofun, fun _ => ⟨hc, rfl⟩⟩

/-- An instruction at a pc that can be fetched keeps the invariant of a running core. -/
theorem State.Inv.exec {s t : State} (h : s.Inv) (hrun : s.status.state = .run) (hpc : s.pc.toNat + 1 ≤ 0xFFF)
    {i : Instr} (he : exec i s = .next t) : t.Inv := by
  cases hf : faultCondition i s with
  | some c =>
    obtain rfl := Host.Outcome.next.inj ((exec_eq_raise_of_faultCondition hf).symm.trans he)
    exact h.raise (ne_none_of_faultCondition hf) _
  | none =>
    obtain ⟨hsp, -, hslots, hmem, hclear, -⟩ := h
    obtain ⟨hsp', hslots'⟩ := sp_stack_of_exec hsp hpc hslots hf he
    obtain ⟨u, hu, hupc⟩ := pcAfterStepIsAsTabled i s hsp hpc hf
    obtain rfl := Host.Outcome.next.inj (hu.symm.trans he)
    have hstatus : u.status = Status.clear :=
      ((tabledFrame_of_exec hf he).parts .status (by decide) (mayWrite_status i)).trans (hclear hrun)
    exact ⟨hsp', hupc.trans_le (nextPc_le hpc hslots), hslots', mem_wf_of_exec hsp hmem hf he,
      fun _ => hstatus, fun hfault => by rw [hstatus] at hfault; cases hfault⟩

/-- Settles O10, by the three things a step can do. -/
theorem stepKeepsInvariant : Obligations.StepKeepsInvariant := by
  intro s t h hstep
  rcases step_cases s with ⟨-, hs⟩ | hs | ⟨i, hrun, hpc, hs⟩
  · exact Host.Outcome.next.inj (hs.symm.trans hstep) ▸ h
  · exact Host.Outcome.next.inj (hs.symm.trans hstep) ▸ h.raise (by decide) _
  · exact h.exec hrun hpc (hs.symm.trans hstep)

/-- The state after init of an image that fits: the reset state with the image inside memory. -/
theorem inv_of_init {font : Font} {image : List Byte} {s : State} (h : State.init font image = .ok s) : s.Inv := by
  have hlen : image.length ≤ Config.maxImage := by
    by_contra hgt
    rw [State.init, if_pos (Nat.lt_of_not_le hgt)] at h
    cases h
  obtain rfl := eq_reset_of_init h
  have hsp : State.reset.sp.toNat ≤ 16 := by decide
  have hpc : State.reset.pc.toNat ≤ 0x10FE := by decide
  have hslots (j : Fin 16) : State.reset.stack[j].toNat ≤ 0x1000 := by rw [State.reset_stack_slot]; decide
  have hfits : Config.progBase + image.length ≤ Config.memSize := Nat.add_le_of_le_sub' (by decide) hlen
  exact ⟨hsp, hpc, hslots, Memory.writeBytes_wf (Memory.wf_empty font) (.inr hfits), fun _ => rfl, nofun⟩

/-- Settles O12, move by move: a step is O10's, init starts over, and no other move touches what the invariant speaks
of. -/
theorem everyMoveKeepsInvariant : Obligations.EveryMoveKeepsInvariant := by
  intro m s t r h hm
  cases m with
  | step =>
    cases hs : step s with
    | next u =>
      simp only [applyMove, hs] at hm
      obtain ⟨rfl, -⟩ := MoveResult.done.inj hm
      exact stepKeepsInvariant s u h hs
    | fault | refused => simp [applyMove, hs] at hm
  | init image =>
    cases hi : State.init s.mem.font image with
    | ok u =>
      simp only [applyMove, hi] at hm
      obtain ⟨rfl, -⟩ := MoveResult.done.inj hm
      have hu : u.Inv := inv_of_init hi
      exact hu
    | error => simp [applyMove, hi] at hm
  | setKeys | tick | readFb | readTimers | readStatus | rand =>
    obtain ⟨rfl, -⟩ := MoveResult.done.inj hm
    exact h

/-- The reset state is what init of an empty image gives with the default FONT. -/
theorem init_nil : State.init defaultFont [] = .ok State.reset := rfl

/-- Settles O11: the reset state is an init's. -/
theorem resetMeetsInvariant : Obligations.ResetMeetsInvariant := inv_of_init init_nil

/-- Settles O13: what a step runs takes its tabled fault or completes. -/
theorem stepAlwaysAnswersNext : Obligations.StepAlwaysAnswersNext := by
  intro s h
  rcases step_cases s with ⟨-, hs⟩ | hs | ⟨i, -, -, hs⟩
  · exact ⟨s, hs⟩
  · exact ⟨_, hs⟩
  · rw [hs]
    cases hf : faultCondition i s with
    | some c => exact ⟨_, exec_eq_raise_of_faultCondition hf⟩
    | none =>
      obtain ⟨hsp, -⟩ := h
      exact exec_eq_next_of_noFault hsp hf

end Sys2Proof.Machine
end

section
/-! SUPPORT. The obligations on the step and on runs that stay put (spec/30_encoding.md R93 to R95,
spec/60_exceptions.md R304, R331, spec/46_timer_key_index.md R246, R247). -/

namespace Sys2Proof.Machine

/-! ## What the step runs -/

/-- Settles O5: the fetched word is the instruction's, and it decodes to the instruction (O1). -/
theorem stepRunsDecodedInstruction : Obligations.StepRunsDecodedInstruction := by
  intro i s hi hrun hpc hbytes
  have hword : wordOfBytes (s.mem.read s.pc.toNat) (s.mem.read (s.pc.toNat + 1)) = encode i :=
    BitVec.eq_of_toNat_eq (by rw [wordOfBytes_toNat, hbytes, Nat.mul_comm])
  rw [step_of_fetch hrun (State.fetch_eq_some s hpc), hword, decodeOfEncodeIsIdentity i hi]

/-- Settles O6: the step raises FETCH_OOB, which writes the status register alone. -/
theorem fetchPastMemoryFaults : Obligations.FetchPastMemoryFaults := fun s hrun hpc =>
  ⟨_, step_of_fetch_none hrun hpc, State.raise_status s .fetchOob 0x0000, unchangedBut_raise s .fetchOob 0x0000⟩

/-! ## Runs that stay put -/

/-- A state that a step answers itself is what every run from it answers. -/
theorem run_of_step_self {s : State} (h : step s = .next s) (n : Nat) :
    Host.Core.run Sys2Proof.core n s = .next s := by
  induction n with
  | zero => rfl
  | succ n ih =>
    have hcore : Sys2Proof.core.step s = .next s := h
    simp only [Host.Core.run, hcore]
    exact ih

/-- Settles O7: a step in FAULT answers the same state. -/
theorem faultedCoreStaysPut : Obligations.FaultedCoreStaysPut := fun n _ h => run_of_step_self (step_of_fault h) n

theorem decodeWord_of_family_1 {w : Word} (h : w.toNat / 4096 = 1) : decodeWord w = .jp (fieldNnn w) := by
  have hf : fieldFamily w = 0x1#4 := BitVec.eq_of_toNat_eq (by rw [fieldFamily_toNat, h]; rfl)
  simp only [decodeWord, hf]

/-- A step at a jump to itself writes to pc what pc holds. -/
theorem step_of_atSelfJump {s : State} (h : s.AtSelfJump) : step s = .next s := by
  obtain ⟨hrun, w, hw, hfamily, htarget⟩ := h
  have hpc : zextAddr (fieldNnn w) = s.pc :=
    BitVec.eq_of_toNat_eq (by rw [zextAddr_toNat, fieldNnn_toNat, htarget])
  rw [step_of_fetch hrun hw, decodeWord_of_family_1 hfamily, exec_jp, hpc]
  rfl

/-- Settles O57. -/
theorem selfJumpStaysPut : Obligations.SelfJumpStaysPut := fun n _ h => run_of_step_self (step_of_atSelfJump h) n

/-! ## The key wait -/

theorem exec_ldVxK (x : Reg) (s : State) : exec (.ldVxK x) s = execLdVxK x s := rfl

/-- Settles O46: the key found is the lowest pressed one, and its index fits a byte. -/
theorem keyWaitLoadsLowestKey : Obligations.KeyWaitLoadsLowestKey := by
  intro x s k hk hlow
  have hkey : lowestKey s.key = some k := (lowestKey_eq_some_iff _ _).2 ⟨hk, hlow⟩
  refine ⟨_, (exec_ldVxK x s).trans (execLdVxK_key hkey), ?_, State.advance_pc s,
    regsUnchangedBut_advance_setReg s x _, (unchangedBut_advance s).trans (unchangedBut_setReg s.advance x _)⟩
  rw [reg_setReg_same, BitVec.toNat_ofNat]
  omega

/-- Settles O47: with no key pressed the step at LD_VX_K answers the same state. -/
theorem keyWaitPolls : Obligations.KeyWaitPolls := by
  intro n x s hrun hw hkeys
  have hwait : exec (.ldVxK x) s = .next s := execLdVxK_wait ((lowestKey_eq_none_iff _).2 hkeys)
  refine ⟨hwait, run_of_step_self ?_ n⟩
  rw [step_of_fetch hrun hw, decodeOfEncodeIsIdentity (.ldVxK x) rfl, hwait]

end Sys2Proof.Machine
end

section
/-! SUPPORT. The obligations on skips (spec/40_skip.md), jumps, calls and returns (spec/41_jump_call.md). -/

namespace Sys2Proof.Machine

/-! ## Skips (R110 to R116) -/

theorem skipIf_advance_pc (s : State) (c : Bool) :
    (s.advance.skipIf c).pc = if c = true then s.pc + 4 else s.pc + 2 := by
  rw [State.skipIf_pc, State.advance_pc, add_two_add_two]

theorem unchangedBut_advance_skipIf (s : State) (c : Bool) : UnchangedBut [.pc] s (s.advance.skipIf c) :=
  ((unchangedBut_advance s).trans (unchangedBut_skipIf s.advance c)).mono (by decide)

/-- Settles O16: each of the four skips on its condition, and a skip writes pc alone. -/
theorem registerSkipsMovePc : Obligations.RegisterSkipsMovePc := by
  intro x y kk ign s
  refine ⟨⟨_, rfl, ?_, unchangedBut_advance_skipIf s _⟩, ⟨_, rfl, ?_, unchangedBut_advance_skipIf s _⟩,
    ⟨_, rfl, ?_, unchangedBut_advance_skipIf s _⟩, ⟨_, rfl, ?_, unchangedBut_advance_skipIf s _⟩⟩ <;>
    rw [skipIf_advance_pc] <;> simp

/-- Settles O17: V[x] names key k, whose cell is SKP's condition and, negated, SKNP's. -/
theorem keySkipsMovePc : Obligations.KeySkipsMovePc := by
  intro x ign s k hk
  refine ⟨⟨_, execSkp_key hk, skipIf_advance_pc s _, unchangedBut_advance_skipIf s _⟩,
    ⟨_, execSknp_key hk, ?_, unchangedBut_advance_skipIf s _⟩⟩
  rw [skipIf_advance_pc]
  cases s.key[k] <;> rfl

/-- Settles O18: the two rows of table T-R302 for KEY_INDEX. -/
theorem keySkipsFaultPastKeypad : Obligations.KeySkipsFaultPastKeypad := by
  intro x ign s hx i hi
  refine tabledConditionsFault i s .keyIndex ?_
  obtain rfl | rfl : i = .skp x ign ∨ i = .sknp x ign := by simpa using hi
  · exact if_pos hx
  · exact if_pos hx

/-! ## Jumps, CALL and RET (R131 to R135) -/

theorem exec_jpV0 (nnn : Addr12) (s : State) : exec (.jpV0 nnn) s = .next (s.setPc (v0Plus s nnn)) := rfl

/-- Settles O20: the sum fits 16 bits. -/
theorem jumpV0SetsPc : Obligations.JumpV0SetsPc := fun nnn s =>
  ⟨_, exec_jpV0 nnn s, v0Plus_toNat s nnn, unchangedBut_setPc s _⟩

/-- Settles O21: the push writes slot sp alone; a full stack is T-R302's row for CALL. -/
theorem callPushesReturnAddress : Obligations.CallPushesReturnAddress := by
  intro nnn s
  refine ⟨fun hlt => ?_, fun hfull => tabledConditionsFault (.call nnn) s .stackOverflow (if_pos hfull)⟩
  refine ⟨_, execCall_push hlt, zextAddr_toNat nnn, sp_add_one_toNat hlt, fun j => ?_,
    (unchangedBut_push s (s.pc + 2) hlt).trans (unchangedBut_setPc _ _)⟩
  simp only [State.setPc_stack, State.push_stack, Fin.getElem_fin, Vector.getElem_set, eq_comm]

/-- Settles O22: the pop reads slot sp - 1; an empty stack is T-R302's row for RET. -/
theorem returnPopsStack : Obligations.ReturnPopsStack := by
  intro ign s
  refine ⟨fun j hj => ?_, fun hempty => tabledConditionsFault (.ret ign) s .stackUnderflow (if_pos hempty)⟩
  have hslot : (s.sp - 1).toNat = j.val := by rw [sp_sub_one_toNat (by omega), hj, Nat.add_sub_cancel]
  have hlt : (s.sp - 1).toNat < 16 := hslot ▸ j.isLt
  refine ⟨_, execRet_pop (by omega) hlt, ?_, hslot, rfl, (unchangedBut_popPc s hlt).mono (by decide)⟩
  simp only [State.popPc_pc, hslot, Fin.getElem_fin]

/-! ## Calls and returns in balance (R136) -/

theorem runInstrs_cons_of_next {i : Instr} {s t : State} (h : exec i s = .next t) (is : List Instr) :
    runInstrs (i :: is) s = runInstrs is t := by
  simp only [runInstrs, h]

theorem runInstrs_append_of_next {is : List Instr} {s t : State} (h : runInstrs is s = .next t) (js : List Instr) :
    runInstrs (is ++ js) s = runInstrs js t := by
  induction is generalizing s with
  | nil => obtain rfl := Host.Outcome.next.inj h; rfl
  | cons i is ih =>
    simp only [List.cons_append, runInstrs] at h ⊢
    cases he : exec i s with
    | next u => rw [he] at h; exact ih h
    | fault | refused => rw [he] at h; cases h

/-- The calls of `targets` one after another, then as many returns. -/
def callsThenReturns (targets : List Addr12) (ign : Byte) : List Instr :=
  targets.map Instr.call ++ List.replicate targets.length (Instr.ret ign)

theorem callsThenReturns_cons (a : Addr12) (rest : List Addr12) (ign : Byte) :
    callsThenReturns (a :: rest) ign = .call a :: (callsThenReturns rest ign ++ [.ret ign]) := by
  simp [callsThenReturns, List.replicate_succ']

/-- Nested calls and returns leave the slots below the starting sp alone, so the last return pops what the first call
pushed. -/
theorem runInstrs_callsThenReturns (targets : List Addr12) (ign : Byte) (s : State)
    (hroom : s.sp.toNat + targets.length ≤ 16) :
    ∃ t, runInstrs (callsThenReturns targets ign) s = .next t ∧ (targets ≠ [] → t.pc = s.pc + 2) ∧ t.sp = s.sp ∧
      (∀ j : Fin 16, j.val < s.sp.toNat → t.stack[j] = s.stack[j]) ∧ UnchangedBut [.pc, .stack] s t := by
  induction targets generalizing s with
  | nil => exact ⟨s, rfl, fun h => absurd rfl h, rfl, fun _ _ => rfl, unchangedBut_refl _ s⟩
  | cons a rest ih =>
    rw [List.length_cons] at hroom
    have hlt : s.sp.toNat < 16 := by omega
    obtain ⟨s₁, hcall, -, hsp₁, hslots₁, hframe₁⟩ := (callPushesReturnAddress a s).1 hlt
    obtain ⟨s₂, hrun, -, hsp₂, hslots₂, hframe₂⟩ := ih s₁ (by omega)
    obtain ⟨t, hret, hpc, hsp, hstack, hframe⟩ :=
      (returnPopsStack ign s₂).1 ⟨s.sp.toNat, hlt⟩ (by rw [hsp₂, hsp₁])
    refine ⟨t, ?_, fun _ => ?_, BitVec.eq_of_toNat_eq hsp, fun j hj => ?_, ?_⟩
    · rw [callsThenReturns_cons, runInstrs_cons_of_next hcall, runInstrs_append_of_next hrun,
        runInstrs_cons_of_next hret]
      rfl
    · rw [hpc, hslots₂ _ (by simp only [hsp₁]; omega), hslots₁, if_pos rfl]
    · rw [hstack, hslots₂ j (by omega), hslots₁, if_neg (by omega)]
    · exact ((hframe₁.trans hframe₂).trans hframe).mono (by decide)

/-- Settles O23. -/
theorem callsAndReturnsBalance : Obligations.CallsAndReturnsBalance := by
  intro targets ign s hne hroom
  obtain ⟨t, hrun, hpc, rest⟩ := runInstrs_callsThenReturns targets ign s hroom
  exact ⟨t, hrun, hpc hne, rest⟩

end Sys2Proof.Machine
end

section
/-! SUPPORT. The obligations on copies, logic and arithmetic (spec/42_alu.md), on RND (spec/43_random.md) and on LD_F
(spec/46_timer_key_index.md). -/

namespace Sys2Proof.Machine

/-! ## Operations without a flag (R154 to R157) -/

/-- What an ALU instruction without a flag leaves, but for the value it computes. -/
theorem aluStep_of_noFlag {s : State} {op : AluOp} {x : Reg} {b : Byte} (hf : (alu op (s.reg x) b).flag = none) :
    (s.aluStep op x b).pc = s.pc + 2 ∧ RegsUnchangedBut [x] s (s.aluStep op x b) ∧
      UnchangedBut [.regs, .pc] s (s.aluStep op x b) :=
  ⟨State.aluStep_pc s op x b, regsUnchangedBut_aluStep_of_noFlag hf, unchangedBut_aluStep s op x b⟩

/-- Settles O25: LD_REG is the ALU's passB on V[y]. -/
theorem loadRegisterCopies : Obligations.LoadRegisterCopies := fun _ _ _ =>
  ⟨_, rfl, reg_aluStep_same_of_noFlag rfl, aluStep_of_noFlag rfl⟩

/-- Settles O26: the results are bitwise operations of the library. -/
theorem logicCombinesBits : Obligations.LogicCombinesBits := by
  intro x y s
  refine ⟨⟨_, rfl, fun k _ => ?_, aluStep_of_noFlag rfl⟩, ⟨_, rfl, fun k _ => ?_, aluStep_of_noFlag rfl⟩,
    ⟨_, rfl, fun k _ => ?_, aluStep_of_noFlag rfl⟩⟩
  · rw [reg_aluStep_same_of_noFlag rfl]; exact BitVec.getLsbD_or
  · rw [reg_aluStep_same_of_noFlag rfl]; exact BitVec.getLsbD_and
  · rw [reg_aluStep_same_of_noFlag rfl]; exact BitVec.getLsbD_xor

/-! ## Operations with a flag (R151, R153, R158 to R162) -/

section Flagged

variable {s : State} {op : AluOp} {x : Reg} {b : Byte} {f : Bool}

theorem reg_flag_aluStep (hf : (alu op (s.reg x) b).flag = some f) :
    (s.aluStep op x b).reg Reg.flag = flagByte f := by
  rw [State.reg_aluStep, hf]
  exact if_pos rfl

theorem reg_aluStep_same_of_flag (hf : (alu op (s.reg x) b).flag = some f) (hx : x ≠ Reg.flag) :
    (s.aluStep op x b).reg x = (alu op (s.reg x) b).result := by
  rw [State.reg_aluStep, hf]
  simp only [if_neg hx, if_true]

theorem regsUnchangedBut_aluStep_of_flag (hf : (alu op (s.reg x) b).flag = some f) :
    RegsUnchangedBut [x, Reg.flag] s (s.aluStep op x b) := by
  intro r hr
  obtain ⟨hne, hflag⟩ : r ≠ x ∧ r ≠ Reg.flag := by simpa using hr
  rw [State.reg_aluStep, hf]
  simp only [if_neg hflag, if_neg hne]

/-- What an ALU instruction with a flag leaves, but for the values it computes. -/
theorem aluStep_of_flag (hf : (alu op (s.reg x) b).flag = some f) :
    (s.aluStep op x b).pc = s.pc + 2 ∧ RegsUnchangedBut [x, Reg.flag] s (s.aluStep op x b) ∧
      UnchangedBut [.regs, .pc] s (s.aluStep op x b) :=
  ⟨State.aluStep_pc s op x b, regsUnchangedBut_aluStep_of_flag hf, unchangedBut_aluStep s op x b⟩

end Flagged

theorem carry_toNat (a b : Byte) : (flagByte (carry a b)).toNat = if a.toNat + b.toNat > 255 then 1 else 0 := by
  simp [carry]

theorem noBorrow_toNat (a b : Byte) : (flagByte (noBorrow a b)).toNat = if a.toNat > b.toNat then 1 else 0 := by
  simp [noBorrow]

/-- The ALU's addition, whatever its second operand is. -/
theorem aluStep_add (s : State) (x : Reg) (b : Byte) :
    (x ≠ Reg.flag → ((s.aluStep .add x b).reg x).toNat = ((s.reg x).toNat + b.toNat) % 256) ∧
      ((s.aluStep .add x b).reg Reg.flag).toNat = (if (s.reg x).toNat + b.toNat > 255 then 1 else 0) :=
  ⟨fun hx => by rw [reg_aluStep_same_of_flag rfl hx]; exact addByte_toNat _ _,
    by rw [reg_flag_aluStep rfl]; exact carry_toNat _ _⟩

/-- Settles O27: both are the ALU's addition, on kk and on V[y]. -/
theorem additionWritesSumAndCarry : Obligations.AdditionWritesSumAndCarry := by
  intro x y kk s
  obtain ⟨hsum, hcarry⟩ := aluStep_add s x kk
  obtain ⟨hsum', hcarry'⟩ := aluStep_add s x (s.reg y)
  exact ⟨⟨_, rfl, hsum, hcarry, aluStep_of_flag rfl⟩, ⟨_, rfl, hsum', hcarry', aluStep_of_flag rfl⟩⟩

/-- Settles O28: result and flag are `subByte` and `noBorrow` of the old values. -/
theorem subtractionWritesDifferenceAndNoBorrow : Obligations.SubtractionWritesDifferenceAndNoBorrow := by
  intro x y s
  refine ⟨_, rfl, fun hx => ?_, ?_, aluStep_of_flag rfl⟩
  · rw [reg_aluStep_same_of_flag rfl hx]; exact subByte_toNat _ _
  · rw [reg_flag_aluStep rfl]; exact noBorrow_toNat _ _

/-- Settles O29: as O28 with the operands exchanged. -/
theorem reverseSubtractionWritesDifferenceAndNoBorrow :
    Obligations.ReverseSubtractionWritesDifferenceAndNoBorrow := by
  intro x y s
  refine ⟨_, rfl, fun hx => ?_, ?_, aluStep_of_flag rfl⟩
  · rw [reg_aluStep_same_of_flag rfl hx]; exact subByte_toNat _ _
  · rw [reg_flag_aluStep rfl]; exact noBorrow_toNat _ _

/-- Settles O30: the shifts of the ALU do not use their second operand, and the flag is the bit shifted out. -/
theorem shiftsMoveOneBitIntoFlag : Obligations.ShiftsMoveOneBitIntoFlag := by
  intro x y s
  refine ⟨⟨_, rfl, fun hx => ?_, ?_, aluStep_of_flag rfl⟩, ⟨_, rfl, fun hx => ?_, ?_, aluStep_of_flag rfl⟩⟩
  · rw [reg_aluStep_same_of_flag rfl hx]; exact shr_toNat _
  · rw [reg_flag_aluStep rfl]; exact lowBit_toNat _
  · rw [reg_aluStep_same_of_flag rfl hx]; exact shl_toNat _
  · rw [reg_flag_aluStep rfl]; exact highBit_toNat _

/-! ## RND (spec/43_random.md R190, R191) -/

theorem exec_rnd (x : Reg) (kk : Byte) (s : State) :
    exec (.rnd x kk) s = .next (s.advance.drawn.setReg x (s.randByte &&& kk)) := rfl

/-- Settles O31: the draw moves the random source alone, and the write the register x. -/
theorem randomByteIsMasked : Obligations.RandomByteIsMasked := by
  intro x kk s
  refine ⟨_, exec_rnd x kk s, fun k _ => ?_, State.drawn_pc s.advance, fun r hr => ?_, ?_⟩
  · rw [reg_setReg_same, BitVec.getLsbD_and]
  · have hne : r ≠ x := by simpa using hr
    rw [State.reg_setReg, if_neg hne, State.reg_drawn, State.reg_advance]
  · exact (((unchangedBut_advance s).trans (unchangedBut_drawn s.advance)).trans
      (unchangedBut_setReg s.advance.drawn x _)).mono (by decide)

/-- Settles O32, by whether an injected byte waits. -/
theorem randomDrawsOneByte : Obligations.RandomDrawsOneByte := by
  intro x kk s t h
  obtain rfl := Host.Outcome.next.inj ((exec_rnd x kk s).symm.trans h)
  rw [reg_setReg_same, State.setReg_randIn, State.setReg_randCount, State.drawn_randIn, State.drawn_randCount,
    State.advance_randIn, State.advance_randCount]
  constructor
  · intro b rest hq
    simp [State.randByte, hq]
  · intro hq
    simp [State.randByte, hq]

/-! ## LD_F (spec/46_timer_key_index.md R252) -/

theorem exec_ldF (x : Reg) (s : State) : exec (.ldF x) s = .next (s.advance.setIndex (glyphAddr (s.reg x))) := rfl

theorem glyphAddr_toNat (d : Byte) : (glyphAddr d).toNat = 0x50 + 5 * d.toNat := by
  simp only [glyphAddr, BitVec.toNat_ofNat, Config.fontBase]
  omega

/-- Settles O49: 0x50 + 5 * 0xFF fits 16 bits. -/
theorem fontAddressIsScaledDigit : Obligations.FontAddressIsScaledDigit := fun x s =>
  ⟨_, exec_ldF x s, glyphAddr_toNat (s.reg x), State.advance_pc s, unchangedBut_advance_setIndex s _⟩

end Sys2Proof.Machine
end

section
/-! SUPPORT. The obligations on what an instruction cannot learn (spec/10_state.md R33, R35, spec/43_random.md R191):
ST, the keypad and the random source are pieces that most instructions neither read nor write, so a change to them
before such an instruction is the same change after it. -/

namespace Sys2Proof.Machine

/-- A change to the pieces of the state that face the outside: ST, the keypad and the random source. -/
structure OuterChange where
  st : Byte → Byte := id
  key : Vector Bool 16 → Vector Bool 16 := id
  randIn : List Byte → List Byte := id
  randCount : Nat → Nat := id

/-- The state with the change made. -/
def OuterChange.apply (e : OuterChange) (s : State) : State :=
  { s with st := e.st s.st, key := e.key s.key, randIn := e.randIn s.randIn, randCount := e.randCount s.randCount }

/-- The change leaves alone what the instruction reads or writes of those pieces: the keypad for SKP, SKNP and LD_VX_K,
the random source for RND, ST for LD_ST_VX. -/
def OuterChange.Spares (e : OuterChange) : Instr → Prop
  | .skp _ _ | .sknp _ _ | .ldVxK _ => e.key = id
  | .rnd _ _ => e.randIn = id ∧ e.randCount = id
  | .ldStVx _ => e.st = id
  | _ => True

/-- Two answers that stop alike. -/
theorem eq_mapNext_of_faults {f : State → State} {o o' : Result} {r : Fault} (h : o = .fault r) (h' : o' = .fault r) :
    o' = mapNext f o := by
  rw [h, h']; rfl

/-- Two answers, of which the second's next state is the first's with `f` applied. -/
theorem eq_mapNext_of_answers {f : State → State} {o o' : Result} {u : State} (h : o = .next u)
    (h' : o' = .next (f u)) : o' = mapNext f o := by
  rw [h, h']; rfl

theorem State.drawn_of_nil {s : State} (h : s.randIn = []) : s.drawn = { s with randCount := s.randCount + 1 } := by
  simp only [State.drawn, h]

theorem State.drawn_of_cons {s : State} {b : Byte} {rest : List Byte} (h : s.randIn = b :: rest) :
    s.drawn = { s with randIn := rest } := by
  simp only [State.drawn, h]

theorem State.randByte_congr {s t : State} (hq : t.randIn = s.randIn) (hn : t.randCount = s.randCount) :
    t.randByte = s.randByte := by
  simp only [State.randByte, hq, hn]

namespace OuterChange

theorem faultCondition_apply (e : OuterChange) (i : Instr) (s : State) :
    faultCondition i (e.apply s) = faultCondition i s := rfl

theorem apply_mem (e : OuterChange) (s : State) : (e.apply s).mem = s.mem := rfl

theorem apply_base (e : OuterChange) (s : State) : (e.apply s).base = s.base := rfl

theorem apply_setRegsBelow (e : OuterChange) (s : State) (n : Nat) (f : Nat → Byte) :
    (e.apply s).advance.setRegsBelow n f = e.apply (s.advance.setRegsBelow n f) := by
  simp only [State.setRegsBelow, State.advance, State.setPc, apply]

theorem skipIf_apply (e : OuterChange) (s : State) (c : Bool) :
    (.next ((e.apply s).advance.skipIf c) : Result) = .next (e.apply (s.advance.skipIf c)) := by
  cases c <;> rfl

theorem drawn_apply {e : OuterChange} (hin : e.randIn = id) (hcount : e.randCount = id) (s : State) :
    (e.apply s).drawn = e.apply s.drawn := by
  have hq : (e.apply s).randIn = s.randIn := congrFun hin s.randIn
  cases h : s.randIn with
  | nil => rw [State.drawn_of_nil h, State.drawn_of_nil (hq.trans h)]; simp [apply, hcount]
  | cons b rest => rw [State.drawn_of_cons h, State.drawn_of_cons (hq.trans h)]; simp [apply, hin]

theorem execRnd_apply {e : OuterChange} (hin : e.randIn = id) (hcount : e.randCount = id) (x : Reg) (kk : Byte)
    (s : State) : execRnd x kk (e.apply s) = mapNext e.apply (execRnd x kk s) := by
  have hbyte : (e.apply s).randByte = s.randByte :=
    State.randByte_congr (congrFun hin s.randIn) (congrFun hcount s.randCount)
  refine eq_mapNext_of_answers rfl (congrArg Host.Outcome.next ?_)
  rw [hbyte, show (e.apply s).advance = e.apply s.advance from rfl, drawn_apply hin hcount]
  rfl

/-- A change that spares an instruction passes through it: a tabled fault depends on none of the changed pieces, and
neither does what a completing instruction reads. -/
theorem exec_apply {e : OuterChange} {i : Instr} (h : e.Spares i) (s : State) :
    exec i (e.apply s) = mapNext e.apply (exec i s) := by
  cases hf : faultCondition i s with
  | some c =>
    exact eq_mapNext_of_answers (exec_eq_raise_of_faultCondition hf)
      (exec_eq_raise_of_faultCondition ((e.faultCondition_apply i s).trans hf))
  | none =>
    cases i with
    | seImm | sneImm | seReg | sneReg => exact e.skipIf_apply s _
    | skp x =>
      have hk : (s.reg x).toNat < 16 := by simpa [Nat.lt_succ_iff] using hf
      have hkey : (e.apply s).key = s.key := congrFun h s.key
      refine eq_mapNext_of_answers (execSkp_key (k := ⟨_, hk⟩) rfl)
        ((execSkp_key (s := e.apply s) (k := ⟨_, hk⟩) rfl).trans ?_)
      rw [hkey, e.skipIf_apply]
    | sknp x =>
      have hk : (s.reg x).toNat < 16 := by simpa [Nat.lt_succ_iff] using hf
      have hkey : (e.apply s).key = s.key := congrFun h s.key
      refine eq_mapNext_of_answers (execSknp_key (k := ⟨_, hk⟩) rfl)
        ((execSknp_key (s := e.apply s) (k := ⟨_, hk⟩) rfl).trans ?_)
      rw [hkey, e.skipIf_apply]
    | ldVxK =>
      have hkey : (e.apply s).key = s.key := congrFun h s.key
      cases hl : lowestKey s.key with
      | none => exact eq_mapNext_of_answers (execLdVxK_wait hl) (execLdVxK_wait (hkey ▸ hl))
      | some => exact eq_mapNext_of_answers (execLdVxK_key hl) (execLdVxK_key (hkey ▸ hl))
    | rnd =>
      obtain ⟨hin, hcount⟩ := h
      exact execRnd_apply hin hcount _ _ s
    | ldStVx x =>
      have hst : e.st (s.reg x) = s.reg x := congrFun h (s.reg x)
      exact eq_mapNext_of_answers rfl (congrArg (fun b => Host.Outcome.next ((e.apply s).advance.setSt b)) hst.symm)
    | call =>
      rcases Nat.lt_or_ge 16 s.sp.toNat with hgt | hle
      · exact eq_mapNext_of_faults (execCall_spOutOfRange hgt) (execCall_spOutOfRange (s := e.apply s) hgt)
      · have hlt : s.sp.toNat < 16 := Nat.lt_of_le_of_ne hle (by simpa using hf)
        exact eq_mapNext_of_answers (execCall_push hlt) (execCall_push (s := e.apply s) hlt)
    | ret =>
      have h0 : s.sp.toNat ≠ 0 := by simpa using hf
      rcases Nat.lt_or_ge 16 s.sp.toNat with hgt | hle
      · exact eq_mapNext_of_faults (execRet_spOutOfRange hgt) (execRet_spOutOfRange (s := e.apply s) hgt)
      · have hlt := popIndex_lt h0 hle
        exact eq_mapNext_of_answers (execRet_pop h0 hlt) (execRet_pop (s := e.apply s) h0 hlt)
    | drw _ _ n =>
      have hr : ¬ s.outOfRange n.val := by simpa using hf
      exact eq_mapNext_of_answers (execDrw_inRange hr) (execDrw_inRange (s := e.apply s) hr)
    | ldMemVx x =>
      have hr : ¬ s.outOfRange x.val := by simpa using hf
      exact eq_mapNext_of_answers (execLdMemVx_inRange hr) (execLdMemVx_inRange (s := e.apply s) hr)
    | ldVxMem x =>
      have hr : ¬ s.outOfRange x.val := by simpa using hf
      refine eq_mapNext_of_answers (execLdVxMem_inRange hr) ((execLdVxMem_inRange (s := e.apply s) hr).trans ?_)
      rw [e.apply_mem, e.apply_base, e.apply_setRegsBelow]
    | ldB =>
      have hr : ¬ s.outOfRange 3 := by simpa using hf
      exact eq_mapNext_of_answers (execLdB_inRange hr) (execLdB_inRange (s := e.apply s) hr)
    | _ => rfl

end OuterChange

/-! ## ST, the keypad, the random source -/

/-- Setting ST once more forgets what it was set to before. -/
theorem mapNext_setSt_mapNext_setSt (a b : Byte) (o : Result) :
    mapNext (fun t => t.setSt a) (mapNext (fun t => t.setSt b) o) = mapNext (fun t => t.setSt a) o := by
  cases o <;> rfl

theorem exec_ldStVx_setSt (x : Reg) (s : State) (b : Byte) : exec (.ldStVx x) (s.setSt b) = exec (.ldStVx x) s := rfl

/-- Settles O58: a change of ST passes through every instruction but LD_ST_VX, which overwrites it. -/
theorem soundTimerIsNeverRead : Obligations.SoundTimerIsNeverRead := by
  intro i s b
  refine ⟨?_, fun x => exec_ldStVx_setSt x s b⟩
  by_cases hi : ∃ x, i = .ldStVx x
  · obtain ⟨x, rfl⟩ := hi
    rw [exec_ldStVx_setSt]
  · have hspares : OuterChange.Spares { st := fun _ => b } i := by
      cases i with
      | ldStVx x => exact absurd ⟨x, rfl⟩ hi
      | skp | sknp | ldVxK => rfl
      | rnd => exact ⟨rfl, rfl⟩
      | _ => trivial
    have hpass : exec i (s.setSt b) = mapNext (fun t => t.setSt b) (exec i s) := OuterChange.exec_apply hspares s
    rw [hpass, mapNext_setSt_mapNext_setSt]

/-- Settles O59: a change of the keypad passes through every instruction but the three that read it. -/
theorem keypadReachesOnlyKeyInstructions : Obligations.KeypadReachesOnlyKeyInstructions := by
  intro i s k hskp hsknp hk
  have hspares : OuterChange.Spares { key := fun _ => k } i := by
    cases i with
    | skp x ign => exact absurd rfl (hskp x ign)
    | sknp x ign => exact absurd rfl (hsknp x ign)
    | ldVxK x => exact absurd rfl (hk x)
    | ldStVx => rfl
    | rnd => exact ⟨rfl, rfl⟩
    | _ => trivial
  exact OuterChange.exec_apply hspares s

/-- Settles O60: a change of the random source passes through every instruction but RND. -/
theorem randomSourceReachesOnlyRnd : Obligations.RandomSourceReachesOnlyRnd := by
  intro i s q n hrnd
  have hspares : OuterChange.Spares { randIn := fun _ => q, randCount := fun _ => n } i := by
    cases i with
    | rnd x kk => exact absurd rfl (hrnd x kk)
    | skp | sknp | ldVxK | ldStVx => rfl
    | _ => trivial
  exact OuterChange.exec_apply hspares s

end Sys2Proof.Machine
end

section
/-! SUPPORT. The obligations on init, the tick and fb_out (spec/70_reset_and_hazards.md, spec/60_exceptions.md R316,
R321, spec/20_memory.md R56). -/

namespace Sys2Proof.Machine

/-! ## init -/

/-- Settles O51: the capacity check is the one branch of init. -/
theorem initChecksCapacity : Obligations.InitChecksCapacity := fun font _ =>
  ⟨fun hle => ⟨_, init_eq_ok_of_length_le font hle⟩, fun hgt => if_pos hgt⟩

/-- An address nothing has been written to reads as the initial contents. -/
theorem Memory.read_empty (font : Font) (a : Nat) : (Memory.mk font []).read a = (Memory.mk font []).initial a := rfl

theorem Memory.initial_font (m : Memory) (k : Fin 80) : m.initial (0x50 + k.val) = m.font[k] := by
  have hin : Config.fontBase ≤ 0x50 + k.val ∧ 0x50 + k.val < Config.fontBase + Config.fontSize := by
    have := k.isLt
    simp only [Config.fontBase, Config.fontSize]
    omega
  simp only [Memory.initial, dif_pos hin, Fin.getElem_fin, Nat.add_sub_cancel_left]

theorem Memory.initial_eq_zero (m : Memory) {a : Nat} (h : a < 0x50 ∨ 0xA0 ≤ a) : m.initial a = 0 := by
  have hout : ¬ (Config.fontBase ≤ a ∧ a < Config.fontBase + Config.fontSize) := by
    simp only [Config.fontBase, Config.fontSize]
    omega
  simp only [Memory.initial, dif_neg hout]

theorem reset_key (k : Fin 16) : State.reset.key[k] = false := by
  simp [State.reset]

/-- Settles O53: the image's block write is read back inside it, and outside it memory is as R56 has it initially. -/
theorem initLoadsImageAndFont : Obligations.InitLoadsImageAndFont := by
  intro font image s h
  obtain rfl := eq_reset_of_init h
  have outside {a : Nat} (ha : a < 0x200 ∨ 0x200 + image.length ≤ a) :
      ((Memory.mk font []).writeBytes Config.progBase image).read a = (Memory.mk font []).initial a :=
    Memory.read_writeBytes_outside _ _ _ _ ha
  refine ⟨fun k hk => Memory.read_writeBytes_inside _ _ _ k hk, fun k => ?_, fun a hfont himage => ?_,
    clearScreen_cell, reset_key, rfl, rfl⟩
  · exact (outside (.inl (by omega))).trans (Memory.initial_font _ k)
  · exact (outside himage).trans (Memory.initial_eq_zero _ hfont)

/-! ## The tick -/

theorem tickTimer_toNat (t : Byte) : (tickTimer t).toNat = t.toNat - 1 := by
  unfold tickTimer
  split
  · rw [BitVec.toNat_sub_of_le]
    · rfl
    · rw [BitVec.le_def]; assumption
  · omega

/-- Settles O54. -/
theorem tickCountsDown : Obligations.TickCountsDown := fun s =>
  ⟨tickTimer_toNat s.dt, tickTimer_toNat s.st, unchangedBut_tick s⟩

/-! ## fb_out -/

/-- Settles O56: index r * 64 + c has quotient r and remainder c. -/
theorem screenOutputIsRowMajor : Obligations.ScreenOutputIsRowMajor := by
  intro s r c
  have hrow : (r.val * 64 + c.val) / 64 = r.val := by omega
  have hcol : (r.val * 64 + c.val) % 64 = c.val := by omega
  simp only [State.fbOut, Vector.getElem_ofFn, hrow, hcol, Fin.getElem_fin]

end Sys2Proof.Machine
end

section
/-! SUPPORT. The obligations on loads and stores through I (spec/45_memory_block.md) and on a stored word's fetch
(spec/20_memory.md section 4). -/

namespace Sys2Proof.Machine

/-! ## Stores (R220, R222) -/

/-- A block store after pc's advance writes its bytes and pc alone. -/
theorem storeBytes_frame (s : State) (a : Nat) (bs : List Byte) :
    MemoryUnchangedOutside a bs.length s (s.advance.setMem (s.mem.writeBytes a bs)) ∧
      (s.advance.setMem (s.mem.writeBytes a bs)).pc = s.pc + 2 ∧
      UnchangedBut [.memory, .pc] s (s.advance.setMem (s.mem.writeBytes a bs)) :=
  ⟨fun k hk => Memory.read_writeBytes_outside s.mem a bs k hk, State.advance_pc s,
    (unchangedBut_advance s).trans (unchangedBut_setMem_writeBytes s.advance a bs)⟩

theorem exec_ldMemVx {x : Reg} {s : State} (h : x.val = 0 ∨ s.base + x.val ≤ 4096) :
    exec (.ldMemVx x) s = .next (s.advance.setMem (s.mem.writeBytes s.base (s.regsBelow x.val))) :=
  execLdMemVx_inRange (State.inRange h)

theorem read_writeBytes_regsBelow (s : State) (m : Memory) (a : Nat) {x r : Reg} (hr : r.val < x.val) :
    (m.writeBytes a (s.regsBelow x.val)).read (a + r.val) = s.reg r := by
  have hlen : (s.regsBelow x.val).length = x.val := State.regsBelow_length s (by omega)
  rw [Memory.read_writeBytes_inside m a _ r.val (hlen.symm ▸ hr), State.regsBelow_getElem]

/-- Settles O39: byte r of the stored block is V[r]. -/
theorem storeBlockWritesRegisters : Obligations.StoreBlockWritesRegisters := by
  intro x s h
  have frame := storeBytes_frame s s.base (s.regsBelow x.val)
  rw [State.regsBelow_length s (by omega)] at frame
  exact ⟨_, exec_ldMemVx h, fun r hr => read_writeBytes_regsBelow s s.mem s.base hr, frame⟩

theorem exec_ldB {x : Reg} {s : State} (h : s.base + 3 ≤ 4096) :
    exec (.ldB x) s = .next (s.advance.setMem (s.mem.writeBytes s.base (decimalDigits (s.reg x)))) :=
  execLdB_inRange (State.inRange (.inr h))

/-- The stored bytes read back as the hundreds, tens and ones of the byte. -/
theorem read_writeBytes_decimalDigits (m : Memory) (a : Nat) (b : Byte) :
    ((m.writeBytes a (decimalDigits b)).read a).toNat = b.toNat / 100 ∧
      ((m.writeBytes a (decimalDigits b)).read (a + 1)).toNat = b.toNat / 10 % 10 ∧
      ((m.writeBytes a (decimalDigits b)).read (a + 2)).toNat = b.toNat % 10 := by
  simp [Memory.read_writeBytes, decimalDigits]
  omega

/-- Settles O41: hundreds, tens and ones are the digits of the byte. -/
theorem decimalStoreWritesDigits : Obligations.DecimalStoreWritesDigits := by
  intro x s h
  obtain ⟨hhundreds, htens, hones⟩ := read_writeBytes_decimalDigits s.mem s.base (s.reg x)
  refine ⟨_, exec_ldB h, ?_, ?_, ?_, storeBytes_frame s s.base (decimalDigits (s.reg x))⟩ <;>
    simp only [State.setMem_mem, hhundreds, htens, hones] <;> omega

/-! ## Loads (R221) -/

theorem exec_ldVxMem {x : Reg} {s : State} (h : x.val = 0 ∨ s.base + x.val ≤ 4096) :
    exec (.ldVxMem x) s = .next (s.advance.setRegsBelow x.val fun k => s.mem.read (s.base + k)) :=
  execLdVxMem_inRange (State.inRange h)

/-- Settles O40: the block write port writes the registers below x alone. -/
theorem loadBlockReadsMemory : Obligations.LoadBlockReadsMemory := by
  intro x s h
  refine ⟨_, exec_ldVxMem h, fun r hr => ?_, fun r hr => ?_, State.advance_pc s,
    (unchangedBut_advance s).trans (unchangedBut_setRegsBelow s.advance _ _)⟩
  · rw [State.reg_setRegsBelow, if_pos hr]
  · rw [State.reg_setRegsBelow, if_neg (Nat.not_lt.2 hr), State.reg_advance]

/-- Settles O42: the rows of table T-R302 for the accesses through I. -/
theorem blockAccessPastMemoryFaults : Obligations.BlockAccessPastMemoryFaults := fun x s =>
  ⟨fun hx hend => tabledConditionsFault (.ldMemVx x) s .writeOob (if_pos ⟨hx, hend⟩),
    fun hx hend => tabledConditionsFault (.ldVxMem x) s .readOob (if_pos ⟨hx, hend⟩),
    fun hend => tabledConditionsFault (.ldB x) s .writeOob (if_pos hend)⟩

/-! ## A store and what reads it -/

/-- Settles O43: the load reads the bytes the store wrote (O39, O40). -/
theorem storeThenLoadReturnsRegisters : Obligations.StoreThenLoadReturnsRegisters := by
  intro x s t s₂ h hstore hmem hindex
  obtain ⟨t', ht', hstored, -⟩ := storeBlockWritesRegisters x s h
  obtain rfl := Host.Outcome.next.inj (ht'.symm.trans hstore)
  have hbase : s₂.base = s.base := congrArg BitVec.toNat hindex
  obtain ⟨u, hu, hloaded, -⟩ := loadBlockReadsMemory x s₂ (hbase.symm ▸ h)
  exact ⟨u, hu, fun r hr => by rw [hloaded r hr, hmem, hbase, hstored r hr]⟩

/-- Settles O44: the stored bytes V0 and V1 stand at the next pc and after it (O39). -/
theorem storedWordIsFetchedNext : Obligations.StoredWordIsFetchedNext := by
  intro x s hx hend hbase
  obtain ⟨t, ht, hstored, -, hpc, -⟩ := storeBlockWritesRegisters x s (.inr hend)
  have hpc' : t.pc.toNat = s.base := by rw [hpc, toNat_add_two (by omega), hbase]
  refine ⟨t, _, ht, State.fetch_eq_some t (by omega), ?_⟩
  have hhi : t.mem.read s.base = s.reg 0 := hstored 0 (by simp only [Fin.val_zero]; omega)
  have hlo : t.mem.read (s.base + 1) = s.reg 1 := hstored 1 (by simp only [Fin.val_one]; omega)
  rw [wordOfBytes_toNat, hpc', hhi, hlo, Nat.mul_comm]

end Sys2Proof.Machine
end

section
/-! SUPPORT. The obligations on DRW (spec/44_display.md R202 to R209): the toggled cells, the second draw, and the
pixel-by-pixel pseudocode. -/

namespace Sys2Proof.Machine

/-! ## The toggled cells (R203 to R207) -/

/-- DRW's answer where its sprite lies inside memory: origin column and row, and the n bytes at I. -/
theorem exec_drw_inRange {x y : Reg} {n : Fin 16} {s : State} (h : n.val = 0 ∨ s.index.toNat + n.val ≤ 4096) :
    exec (.drw x y n) s = .next
      ((s.advance.setFb (drawSprite s.fb (originColumn (s.reg x)) (originRow (s.reg y)) (s.sprite n.val))).setFlag
        (some (spriteHits s.fb (originColumn (s.reg x)) (originRow (s.reg y)) (s.sprite n.val)))) :=
  execDrw_inRange (State.inRange h)

theorem sprite_getElem?_eq_some_iff (s : State) (n k : Nat) (byte : Byte) :
    (s.sprite n)[k]? = some byte ↔ k < n ∧ s.mem.read (s.index.toNat + k) = byte := by
  simp [State.sprite, State.base, List.getElem?_eq_some_iff]

/-- A sprite pixel lands on cell (r, c), in the words of R203 to R207. -/
theorem drawSprite_sprite_ne_iff (s : State) (n ox oy : Nat) (r : Fin 32) (c : Fin 64) :
    (drawSprite s.fb ox oy (s.sprite n))[r][c] ≠ s.fb[r][c] ↔
      ∃ k b, k < n ∧ b < 8 ∧ r.val = oy + k ∧ c.val = ox + b ∧
        (s.mem.read (s.index.toNat + k)).getLsbD (7 - b) = true := by
  simp only [drawSprite_ne_iff, spriteRowAt_eq_some_iff, sprite_getElem?_eq_some_iff, spritePixel]
  constructor
  · rintro ⟨_, ⟨k, hrow, hk, rfl⟩, hge, hlt, hpixel⟩
    exact ⟨k, c.val - ox, hk, by omega, hrow, by omega, hpixel⟩
  · rintro ⟨k, b, hk, hb, hrow, hcol, hpixel⟩
    refine ⟨_, ⟨k, hrow, hk, rfl⟩, by omega, by omega, ?_⟩
    rwa [hcol, Nat.add_sub_cancel_left]

theorem regsUnchangedBut_setFlag (s : State) (f : Option Bool) : RegsUnchangedBut [Reg.flag] s (s.setFlag f) := by
  intro r hr
  have hne : r ≠ Reg.flag := by simpa using hr
  cases f with
  | none => rfl
  | some b => rw [State.reg_setFlag]; exact if_neg hne

/-- Settles O34. -/
theorem drawTogglesSpritePixels : Obligations.DrawTogglesSpritePixels := by
  intro x y n s h
  refine ⟨_, exec_drw_inRange h, fun r c => ?_, ?_, fun r hr => ?_, ?_⟩
  · rw [State.setFlag_fb, State.setFb_fb]
    exact drawSprite_sprite_ne_iff s n.val _ _ r c
  · rw [State.setFlag_pc, State.setFb_pc, State.advance_pc]
  · rw [regsUnchangedBut_setFlag _ _ r hr, State.reg_setFb, State.reg_advance]
  · exact (((unchangedBut_advance s).trans (unchangedBut_setFb s.advance _)).trans (unchangedBut_setFlag _ _)).mono
      (by decide)

/-- Settles O36: T-R302's row for DRW. -/
theorem drawPastMemoryFaults : Obligations.DrawPastMemoryFaults := fun x y n s hn hend =>
  tabledConditionsFault (.drw x y n) s .readOob (if_pos ⟨hn, hend⟩)

/-! ## The second draw (R202) -/

/-- Which cells a sprite toggles does not depend on the screen, so two draws toggle them back. -/
theorem drawSprite_drawSprite_cell (fb : Vector (Vector Bool 64) 32) (ox oy : Nat) (sprite : List Byte) (r : Fin 32)
    (c : Fin 64) : (drawSprite (drawSprite fb ox oy sprite) ox oy sprite)[r][c] = fb[r][c] := by
  have hsame : (drawSprite (drawSprite fb ox oy sprite) ox oy sprite)[r][c] ≠ (drawSprite fb ox oy sprite)[r][c] ↔
      (drawSprite fb ox oy sprite)[r][c] ≠ fb[r][c] := by
    rw [drawSprite_ne_iff, drawSprite_ne_iff]
  generalize (drawSprite (drawSprite fb ox oy sprite) ox oy sprite)[r][c] = b₂ at hsame ⊢
  generalize (drawSprite fb ox oy sprite)[r][c] = b₁ at hsame
  generalize fb[r][c] = b₀ at hsame ⊢
  revert hsame
  cases b₂ <;> cases b₁ <;> cases b₀ <;> simp

theorem fb_of_exec_drw {x y : Reg} {n : Fin 16} {s t : State} (h : n.val = 0 ∨ s.index.toNat + n.val ≤ 4096)
    (he : exec (.drw x y n) s = .next t) :
    t.fb = drawSprite s.fb (originColumn (s.reg x)) (originRow (s.reg y)) (s.sprite n.val) := by
  obtain rfl := Host.Outcome.next.inj ((exec_drw_inRange h).symm.trans he)
  rw [State.setFlag_fb, State.setFb_fb]

theorem sprite_congr {s t : State} (hindex : t.index = s.index) (hmem : ∀ a, t.mem.read a = s.mem.read a) (n : Nat) :
    t.sprite n = s.sprite n := by
  simp only [State.sprite, Memory.readBytes, State.base, hindex, hmem]

/-- Settles O37: the second draw has the first's sprite and origin, so it restores the screen, and a cell the first set
is one the second clears, which is what VF records (O35). -/
theorem drawTwiceRestoresScreen : Obligations.DrawTwiceRestoresScreen := by
  intro x y n s hx hy h
  obtain ⟨t, ht, -, -, hregs, hframe⟩ := drawTogglesSpritePixels x y n s h
  have hindex : t.index = s.index := hframe .index (by decide)
  have hsprite : t.sprite n.val = s.sprite n.val := sprite_congr hindex (hframe .memory (by decide)) n.val
  have h' : n.val = 0 ∨ t.index.toNat + n.val ≤ 4096 := hindex.symm ▸ h
  obtain ⟨u, hu, -⟩ := drawTogglesSpritePixels x y n t h'
  have hscreen (r : Fin 32) (c : Fin 64) : u.fb[r][c] = s.fb[r][c] := by
    rw [fb_of_exec_drw h' hu, hsprite, hregs x (by simpa using hx), hregs y (by simpa using hy), fb_of_exec_drw h ht,
      drawSprite_drawSprite_cell]
  have hcleared : (∃ (r : Fin 32) (c : Fin 64), t.fb[r][c] = true ∧ u.fb[r][c] = false) ↔
      ∃ (r : Fin 32) (c : Fin 64), s.fb[r][c] = false ∧ t.fb[r][c] = true := by
    simp only [hscreen, and_comm]
  have hflag := drawFlagIsCollision x y n t u h' hu
  rw [hcleared] at hflag
  exact ⟨t, u, ht, hu, hscreen, hflag⟩

/-! ## The pixel-by-pixel pseudocode (R204, R209) -/

/-- The detector's outputs once the row's first `m` pixels have been presented. -/
def detectUpTo (m : Nat) (byte : Byte) (ox : Nat) (old : Vector Bool 64) : DetectorOut where
  cells := Vector.ofFn fun c : Fin 64 =>
    if ox ≤ c.val ∧ c.val < ox + m then old[c] ^^ spritePixel byte (c.val - ox) else old[c]
  hit := (List.range m).any fun b => if h : ox + b < 64 then old[ox + b] && spritePixel byte b else false

theorem detectUpTo_eight (byte : Byte) (ox : Nat) (old : Vector Bool 64) :
    detectUpTo 8 byte ox old = detectRow byte ox old := rfl

theorem detectUpTo_zero (byte : Byte) (ox : Nat) (old : Vector Bool 64) :
    detectUpTo 0 byte ox old = ⟨old, false⟩ := by
  simp [detectUpTo, Vector.ext_iff]

theorem detectUpTo_cells_getElem (m : Nat) (byte : Byte) (ox : Nat) (old : Vector Bool 64) (c : Nat) (hc : c < 64) :
    (detectUpTo m byte ox old).cells[c] =
      if ox ≤ c ∧ c < ox + m then old[c] ^^ spritePixel byte (c - ox) else old[c] := by
  simp [detectUpTo]

theorem detectorOut_ext {a b : DetectorOut} (hcells : a.cells = b.cells) (hhit : a.hit = b.hit) : a = b := by
  cases a; cases b; simp_all

section Pixel

variable {m : Nat} {byte : Byte} {ox : Nat} {old : Vector Bool 64}

theorem detectUpTo_succ_hit : (detectUpTo (m + 1) byte ox old).hit = ((detectUpTo m byte ox old).hit ||
    if h : ox + m < 64 then old[ox + m] && spritePixel byte m else false) := by
  simp [detectUpTo, List.range_succ]

/-- A set pixel on the screen toggles its cell, and hits if the cell is set. -/
theorem detectUpTo_succ_of_set (hp : spritePixel byte m = true) (hm : ox + m < 64) :
    detectUpTo (m + 1) byte ox old =
      ⟨(detectUpTo m byte ox old).cells.set (ox + m) (!old[ox + m]), (detectUpTo m byte ox old).hit || old[ox + m]⟩ := by
  refine detectorOut_ext (Vector.ext fun c hc => ?_) (detectUpTo_succ_hit.trans ?_)
  · rw [Vector.getElem_set, detectUpTo_cells_getElem, detectUpTo_cells_getElem]
    by_cases e : ox + m = c
    · subst e; simp [hp]
    · rw [if_neg e]; simp only [show c < ox + (m + 1) ↔ c < ox + m by omega]
  · rw [dif_pos hm, hp, Bool.and_true]

/-- A clear pixel, or one past the right edge, changes nothing. -/
theorem detectUpTo_succ_of_absent (h : ¬ (spritePixel byte m = true ∧ ox + m < 64)) :
    detectUpTo (m + 1) byte ox old = detectUpTo m byte ox old := by
  refine detectorOut_ext (Vector.ext fun c hc => ?_) (detectUpTo_succ_hit.trans ?_)
  · rw [detectUpTo_cells_getElem, detectUpTo_cells_getElem]
    by_cases e : c = ox + m
    · subst e; simp [show spritePixel byte m = false by simpa [hc] using h]
    · simp only [show c < ox + (m + 1) ↔ c < ox + m by omega]
  · by_cases hm : ox + m < 64
    · simp [hm, show spritePixel byte m = false by simpa [hm] using h]
    · simp [hm]

end Pixel

/-- The screen and the collision so far, after a row's first `m` pixels. -/
def presentRow (m : Nat) (byte : Byte) (py ox : Nat) (acc : Vector (Vector Bool 64) 32 × Bool) :
    Vector (Vector Bool 64) 32 × Bool :=
  if h : py < 32 then
    (acc.1.set py (detectUpTo m byte ox acc.1[py]).cells, acc.2 || (detectUpTo m byte ox acc.1[py]).hit)
  else acc

theorem drawPixel_of_set {byte : Byte} {py px b : Nat} (acc : Vector (Vector Bool 64) 32 × Bool)
    (hp : spritePixel byte b = true) (hpy : py < 32) (hpx : px < 64) :
    drawPixel byte py px b acc = (acc.1.set py (acc.1[py].set px (!acc.1[py][px])), acc.2 || acc.1[py][px]) :=
  (if_pos hp).trans (dif_pos ⟨hpy, hpx⟩)

theorem drawPixel_of_absent {byte : Byte} {py px b : Nat} (acc : Vector (Vector Bool 64) 32 × Bool)
    (h : ¬ (spritePixel byte b = true ∧ py < 32 ∧ px < 64)) : drawPixel byte py px b acc = acc := by
  unfold drawPixel
  split
  · next hp => rw [dif_neg fun hin => h ⟨hp, hin⟩]
  · rfl

/-- The pseudocode's next pixel of a row is the detector's. -/
theorem drawPixel_presentRow (m : Nat) (byte : Byte) (py ox : Nat) (acc : Vector (Vector Bool 64) 32 × Bool) :
    drawPixel byte py (ox + m) m (presentRow m byte py ox acc) = presentRow (m + 1) byte py ox acc := by
  by_cases hpy : py < 32
  · by_cases hset : spritePixel byte m = true ∧ ox + m < 64
    · obtain ⟨hp, hm⟩ := hset
      rw [drawPixel_of_set _ hp hpy hm]
      simp [presentRow, hpy, detectUpTo_succ_of_set hp hm, detectUpTo_cells_getElem, Bool.or_assoc]
    · rw [drawPixel_of_absent _ fun ⟨hp, _, hm⟩ => hset ⟨hp, hm⟩]
      simp only [presentRow, detectUpTo_succ_of_absent hset]
  · rw [drawPixel_of_absent _ fun ⟨_, hin, _⟩ => hpy hin]
    simp only [presentRow, dif_neg hpy]

/-- The pseudocode's inner loop presents the whole row (R209). -/
theorem foldl_drawPixel (m : Nat) (byte : Byte) (py ox : Nat) (acc : Vector (Vector Bool 64) 32 × Bool) :
    (List.range m).foldl (fun acc b => drawPixel byte py (ox + b) b acc) acc = presentRow m byte py ox acc := by
  induction m with
  | zero => simp [presentRow, detectUpTo_zero]
  | succ m ih => rw [List.range_succ, List.foldl_append, ih]; exact drawPixel_presentRow m byte py ox acc

/-! ### One more row of the sprite, in the pseudocode and in the detector -/

theorem drawLoop_eq_foldl_presentRow (fb : Vector (Vector Bool 64) 32) (ox oy : Nat) (sprite : List Byte) :
    drawLoop fb ox oy sprite =
      (List.range sprite.length).foldl (fun acc r => presentRow 8 (sprite.getD r 0) (oy + r) ox acc) (fb, false) := by
  simp only [drawLoop, foldl_drawPixel]

theorem drawLoop_append_singleton (fb : Vector (Vector Bool 64) 32) (ox oy : Nat) (sprite : List Byte) (byte : Byte) :
    drawLoop fb ox oy (sprite ++ [byte]) = presentRow 8 byte (oy + sprite.length) ox (drawLoop fb ox oy sprite) := by
  have hlast : (sprite ++ [byte]).getD sprite.length 0 = byte := by simp
  have hinit : ∀ r ∈ List.range sprite.length, (sprite ++ [byte]).getD r 0 = sprite.getD r 0 := fun r hr =>
    List.getD_append _ _ _ _ (List.mem_range.1 hr)
  rw [drawLoop_eq_foldl_presentRow, drawLoop_eq_foldl_presentRow, List.length_append, List.length_singleton,
    List.range_succ, List.foldl_append, List.foldl_cons, List.foldl_nil, hlast]
  exact congrArg _ (List.foldl_ext _ _ _ fun acc r hr => by rw [hinit r hr])

section Row

variable {sprite : List Byte} {oy : Nat} {byte : Byte}

theorem spriteRowAt_append_singleton_last :
    spriteRowAt (sprite ++ [byte]) oy (oy + sprite.length) = some byte := by
  simp [spriteRowAt]

theorem spriteRowAt_length : spriteRowAt sprite oy (oy + sprite.length) = none := by
  simp [spriteRowAt]

theorem spriteRowAt_append_singleton_of_ne {r : Nat} (h : r ≠ oy + sprite.length) :
    spriteRowAt (sprite ++ [byte]) oy r = spriteRowAt sprite oy r := by
  unfold spriteRowAt
  split
  · rw [List.getElem?_append]
    split
    · rfl
    · rw [List.getElem?_eq_none (by simp; omega), List.getElem?_eq_none (by omega)]
  · rfl

end Row

theorem drawSprite_append_singleton (fb : Vector (Vector Bool 64) 32) (ox oy : Nat) (sprite : List Byte)
    (byte : Byte) :
    drawSprite fb ox oy (sprite ++ [byte]) =
      if h : oy + sprite.length < 32 then
        (drawSprite fb ox oy sprite).set (oy + sprite.length) (detectRow byte ox fb[oy + sprite.length]).cells
      else drawSprite fb ox oy sprite := by
  refine Vector.ext fun r hr => ?_
  have hnew := drawSprite_row fb ox oy (sprite ++ [byte]) ⟨r, hr⟩
  have hold := drawSprite_row fb ox oy sprite ⟨r, hr⟩
  simp only [Fin.getElem_fin] at hnew hold
  by_cases hlast : r = oy + sprite.length
  · subst hlast
    rw [hnew, spriteRowAt_append_singleton_last, dif_pos hr, Vector.getElem_set_self]
  · rw [hnew, spriteRowAt_append_singleton_of_ne hlast, ← hold]
    split
    · rw [Vector.getElem_set_ne _ _ (Ne.symm hlast)]
    · rfl

theorem spriteHits_iff_row (fb : Vector (Vector Bool 64) 32) (ox oy : Nat) (sprite : List Byte) :
    spriteHits fb ox oy sprite = true ↔
      ∃ (r : Fin 32) (byte : Byte), spriteRowAt sprite oy r.val = some byte ∧ (detectRow byte ox fb[r]).hit = true := by
  simp only [spriteHits, List.any_eq_true, List.mem_finRange, true_and]
  refine exists_congr fun r => ?_
  cases spriteRowAt sprite oy r.val <;> simp

theorem spriteHits_append_singleton (fb : Vector (Vector Bool 64) 32) (ox oy : Nat) (sprite : List Byte)
    (byte : Byte) :
    spriteHits fb ox oy (sprite ++ [byte]) = (spriteHits fb ox oy sprite ||
      if h : oy + sprite.length < 32 then (detectRow byte ox fb[oy + sprite.length]).hit else false) := by
  rw [Bool.eq_iff_iff, Bool.or_eq_true, spriteHits_iff_row, spriteHits_iff_row]
  constructor
  · rintro ⟨r, b, hrow, hhit⟩
    by_cases hlast : r.val = oy + sprite.length
    · rw [hlast, spriteRowAt_append_singleton_last] at hrow
      obtain rfl := Option.some.inj hrow
      right
      rw [dif_pos (hlast ▸ r.isLt)]
      simpa only [Fin.getElem_fin, hlast] using hhit
    · exact .inl ⟨r, b, by rwa [spriteRowAt_append_singleton_of_ne hlast] at hrow, hhit⟩
  · rintro (⟨r, b, hrow, hhit⟩ | hhit)
    · refine ⟨r, b, ?_, hhit⟩
      rwa [spriteRowAt_append_singleton_of_ne]
      intro hlast
      rw [hlast, spriteRowAt_length] at hrow
      cases hrow
    · split at hhit
      · next h => exact ⟨⟨_, h⟩, byte, spriteRowAt_append_singleton_last, hhit⟩
      · cases hhit

/-- The row a sprite's next byte lands on is not drawn yet. -/
theorem drawSprite_next_row (fb : Vector (Vector Bool 64) 32) (ox oy : Nat) (sprite : List Byte)
    (h : oy + sprite.length < 32) : (drawSprite fb ox oy sprite)[oy + sprite.length] = fb[oy + sprite.length] := by
  have hrow := drawSprite_row fb ox oy sprite ⟨_, h⟩
  rwa [spriteRowAt_length] at hrow

theorem presentRow_drawSprite (fb : Vector (Vector Bool 64) 32) (ox oy : Nat) (sprite : List Byte) (byte : Byte) :
    presentRow 8 byte (oy + sprite.length) ox (drawSprite fb ox oy sprite, spriteHits fb ox oy sprite) =
      (drawSprite fb ox oy (sprite ++ [byte]), spriteHits fb ox oy (sprite ++ [byte])) := by
  rw [drawSprite_append_singleton, spriteHits_append_singleton]
  by_cases h : oy + sprite.length < 32
  · simp only [presentRow, dif_pos h, detectUpTo_eight, drawSprite_next_row fb ox oy sprite h]
  · simp only [presentRow, dif_neg h, Bool.or_false]

/-- R204's loops give the drawn screen and the collision of the detector. -/
theorem drawLoop_eq (fb : Vector (Vector Bool 64) 32) (ox oy : Nat) (sprite : List Byte) :
    drawLoop fb ox oy sprite = (drawSprite fb ox oy sprite, spriteHits fb ox oy sprite) := by
  induction sprite using List.reverseRecOn with
  | nil => simp [drawLoop, drawSprite, spriteHits, spriteRowAt]
  | append_singleton sprite byte ih => rw [drawLoop_append_singleton, ih, presentRow_drawSprite]

theorem flagByte_beq_one (f : Bool) : (flagByte f == 1) = f := by
  cases f <;> rfl

/-- VF after DRW is whether the sprite hits. -/
theorem reg_flag_setFlag (s : State) (f : Bool) : (s.setFlag (some f)).reg Reg.flag = flagByte f := by
  rw [State.reg_setFlag]
  exact if_pos rfl

/-- Settles O38. -/
theorem drawRefinesPixelLoop : Obligations.DrawRefinesPixelLoop := by
  intro x y n s h
  refine ⟨_, exec_drw_inRange h, ?_⟩
  rw [State.setFlag_fb, State.setFb_fb, reg_flag_setFlag, flagByte_beq_one]
  exact (drawLoop_eq s.fb _ _ (s.sprite n.val)).symm

end Sys2Proof.Machine
end
